-- ==== Sys2Proof/Word.lean ====
section
/-!
DEFINITION. The fixed widths of the hardware (00_scope R8): 8 data lines, 13 sampled address lines, the 28-bit sample
word (30_encoding R100) and the 32-bit dispatch word (R101).
-/

namespace Sys2Proof

/-- One transfer on the 8 data lines, one store element, one register byte (R8). -/
abbrev Byte := BitVec 8

/-- A window offset: the 13 sampled address lines A12..A0 (R8). -/
abbrev Offset := BitVec 13

/-- The packed sample word `SW` (R100). -/
abbrev SampleWord := BitVec 28

/-- The dispatch word `DW`, variant tag above sample word (R101). -/
abbrev DispatchWord := BitVec 32

end Sys2Proof
end

