-- ==== Sys2Proof/Syntax.lean ====
section
/-!
DEFINITION. Syntax: the variant tags (30_encoding R104), the window selection (R105), the bus-cycle sample (R100) and the
bus operations, one constructor per row of spec/opcode_table.json. An operation carries the operand fields of its format
(R102): `off` = OFF, `al` = AL, `d` = D.
-/

namespace Sys2Proof

/-- The closed tag of the active cartridge (R104); `Variant.tag` numbers it. -/
inductive Variant where
  | fixed | magicdesk | c64gs | ocean | comal80 | hucky | prophet | simons | dinamic | epyx
  | easyflash | gmod2 | zaxxon | freezeframe | actionreplay | supersnapshot5
deriving DecidableEq, Repr

/-- The two ROM windows, L (ROM-low) and H (ROM-high), of 20_memory R60. -/
inductive RomWindow where
  | l | h
deriving DecidableEq, Repr

/-- The window that serves a sample (R105); `unselected` when no select flag is set. -/
inductive Win where
  | romh | roml | io1 | io2 | unselected
deriving DecidableEq, Repr

/-- One assembled bus-cycle sample (R100). Every flag is true when asserted; `rw` is true on a guest read. -/
structure BusCycleSample where
  addrLo : Byte
  addrHi : BitVec 5
  roml : Bool
  romh : Bool
  io1 : Bool
  io2 : Bool
  vid : Bool
  ba : Bool
  rw : Bool
  data : Byte
deriving DecidableEq, Repr

/-- The bus operations (R3, R107): the analogue of an instruction set. -/
inductive Instr where
  /-- `FX.ROML.R` (rule R170). -/
  | fxRomlR (off : Offset)
  /-- `FX.ROMH.R` (rule R171). -/
  | fxRomhR (off : Offset)
  /-- `MD.ROML.R` (rule R172). -/
  | mdRomlR (off : Offset)
  /-- `MD.IO1.W` (rule R173). -/
  | mdIo1W (al : Byte) (d : Byte)
  /-- `GS.ROML.R` (rule R174). -/
  | gsRomlR (off : Offset)
  /-- `GS.IO1.W` (rule R175). -/
  | gsIo1W (al : Byte) (d : Byte)
  /-- `GS.IO1.R` (rule R176). -/
  | gsIo1R (al : Byte)
  /-- `OC.ROML.R` (rule R177). -/
  | ocRomlR (off : Offset)
  /-- `OC.ROMH.R` (rule R178). -/
  | ocRomhR (off : Offset)
  /-- `OC.IO1.W` (rule R179). -/
  | ocIo1W (al : Byte) (d : Byte)
  /-- `CO.ROML.R` (rule R180). -/
  | coRomlR (off : Offset)
  /-- `CO.ROMH.R` (rule R181). -/
  | coRomhR (off : Offset)
  /-- `CO.IO1.W` (rule R182). -/
  | coIo1W (al : Byte) (d : Byte)
  /-- `HU.ROML.R` (rule R183). -/
  | huRomlR (off : Offset)
  /-- `HU.IO1.W` (rule R184). -/
  | huIo1W (al : Byte) (d : Byte)
  /-- `PR.ROML.R` (rule R185). -/
  | prRomlR (off : Offset)
  /-- `PR.IO2.W` (rule R186). -/
  | prIo2W (al : Byte) (d : Byte)
  /-- `SB.ROML.R` (rule R187). -/
  | sbRomlR (off : Offset)
  /-- `SB.ROMH.R` (rule R188). -/
  | sbRomhR (off : Offset)
  /-- `SB.IO1.W` (rule R189). -/
  | sbIo1W (al : Byte) (d : Byte)
  /-- `SB.IO1.R` (rule R190). -/
  | sbIo1R (al : Byte)
  /-- `DI.ROML.R` (rule R191). -/
  | diRomlR (off : Offset)
  /-- `DI.IO1.R` (rule R192). -/
  | diIo1R (al : Byte)
  /-- `EP.ROML.R` (rule R193). -/
  | epRomlR (off : Offset)
  /-- `EP.IO1.R` (rule R194). -/
  | epIo1R (al : Byte)
  /-- `EP.IO2.R` (rule R195). -/
  | epIo2R (al : Byte)
  /-- `ZX.ROML.R` (rule R196). -/
  | zxRomlR (off : Offset)
  /-- `ZX.ROMH.R` (rule R197). -/
  | zxRomhR (off : Offset)
  /-- `EF.ROML.R` (rule R220). -/
  | efRomlR (off : Offset)
  /-- `EF.ROMH.R` (rule R221). -/
  | efRomhR (off : Offset)
  /-- `EF.IO1.W.BANK` (rule R222). -/
  | efIo1WBank (al : Byte) (d : Byte)
  /-- `EF.IO1.W.CTRL` (rule R223). -/
  | efIo1WCtrl (al : Byte) (d : Byte)
  /-- `EF.IO2.R` (rule R224). -/
  | efIo2R (al : Byte)
  /-- `EF.IO2.W` (rule R225). -/
  | efIo2W (al : Byte) (d : Byte)
  /-- `EF.ROML.W` (rule R226). -/
  | efRomlW (off : Offset) (d : Byte)
  /-- `EF.ROMH.W` (rule R227). -/
  | efRomhW (off : Offset) (d : Byte)
  /-- `GM.ROML.R` (rule R250). -/
  | gmRomlR (off : Offset)
  /-- `GM.IO1.W` (rule R251). -/
  | gmIo1W (al : Byte) (d : Byte)
  /-- `GM.IO1.R` (rule R252). -/
  | gmIo1R (al : Byte)
  /-- `FF.ROML.R` (rule R286). -/
  | ffRomlR (off : Offset)
  /-- `FF.ROMH.R` (rule R287). -/
  | ffRomhR (off : Offset)
  /-- `FF.IO1.R` (rule R288). -/
  | ffIo1R (al : Byte)
  /-- `FF.IO2.R` (rule R289). -/
  | ffIo2R (al : Byte)
  /-- `AR.ROML.R` (rule R290). -/
  | arRomlR (off : Offset)
  /-- `AR.ROML.W` (rule R291). -/
  | arRomlW (off : Offset) (d : Byte)
  /-- `AR.ROMH.R` (rule R292). -/
  | arRomhR (off : Offset)
  /-- `AR.ROMH.W` (rule R293). -/
  | arRomhW (off : Offset) (d : Byte)
  /-- `AR.IO1.W` (rule R294). -/
  | arIo1W (al : Byte) (d : Byte)
  /-- `AR.IO2.R` (rule R295). -/
  | arIo2R (al : Byte)
  /-- `AR.IO2.W` (rule R296). -/
  | arIo2W (al : Byte) (d : Byte)
  /-- `SS.ROML.R` (rule R297). -/
  | ssRomlR (off : Offset)
  /-- `SS.ROML.W` (rule R298). -/
  | ssRomlW (off : Offset) (d : Byte)
  /-- `SS.ROMH.R` (rule R299). -/
  | ssRomhR (off : Offset)
  /-- `SS.IO1.W` (rule R300). -/
  | ssIo1W (al : Byte) (d : Byte)
  /-- `SS.IO1.R` (rule R301). -/
  | ssIo1R (al : Byte)
  /-- `VID.ROMH.R` (rule R360). -/
  | vidRomhR (off : Offset)
  /-- `VID.IGN.W` (rule R361). -/
  | vidIgnW
  /-- `VID.IGN.NR` (rule R362). -/
  | vidIgnNr
  /-- `IGN` (rule R147). -/
  | ign
deriving DecidableEq, Repr

end Sys2Proof
end

