-- ==== Sys2Proof/WellFormed.lean ====
section
/-!
DEFINITION. Well-formed operations. The operand widths are in the types; the one remaining condition is the split of the
EasyFlash I/O1 writes on address bit 1 (30_encoding R106, R107; 42_easyflash R222, R223).
-/

namespace Sys2Proof

/-- An operation is well formed when some dispatch word decodes to it: `EF.IO1.W.BANK` stands at an I/O1 address with
bit 1 clear and `EF.IO1.W.CTRL` at one with bit 1 set; every other operand value is admitted. -/
def Instr.wellFormed : Instr → Bool
  | .efIo1WBank al _ => !al.getLsbD 1
  | .efIo1WCtrl al _ => al.getLsbD 1
  | _ => true

end Sys2Proof
end

