-- ==== Sys2Proof/Decode.lean ====
section
/-!
DEFINITION. Packing of samples (30_encoding R100, R101), operand assembly (R103), window selection (R105), the decode
function (R106, R107), the opcode table it is held against, and the encoder. Decoding is total and refuses nothing: a
dispatch word that no row claims is `IGN` (R108).
-/

namespace Sys2Proof

/-- The tag numbers of R104. -/
def Variant.tag : Variant → BitVec 4
  | .fixed => 0
  | .magicdesk => 1
  | .c64gs => 2
  | .ocean => 3
  | .comal80 => 4
  | .hucky => 5
  | .prophet => 6
  | .simons => 7
  | .dinamic => 8
  | .epyx => 9
  | .easyflash => 10
  | .gmod2 => 11
  | .zaxxon => 12
  | .freezeframe => 13
  | .actionreplay => 14
  | .supersnapshot5 => 15

/-- The variant a 4-bit tag names (R104); all sixteen tags are in use. -/
def Variant.ofTag (t : BitVec 4) : Variant :=
  match t.toNat with
  | 0 => .fixed
  | 1 => .magicdesk
  | 2 => .c64gs
  | 3 => .ocean
  | 4 => .comal80
  | 5 => .hucky
  | 6 => .prophet
  | 7 => .simons
  | 8 => .dinamic
  | 9 => .epyx
  | 10 => .easyflash
  | 11 => .gmod2
  | 12 => .zaxxon
  | 13 => .freezeframe
  | 14 => .actionreplay
  | _ => .supersnapshot5

/-- `OFF = addr_hi ++ addr_lo` (R103). -/
def BusCycleSample.off (S : BusCycleSample) : Offset := S.addrHi ++ S.addrLo

/-- `Win(S)`: ROMH, then ROML, then IO1, then IO2, for reads and writes alike (R105). -/
def BusCycleSample.win (S : BusCycleSample) : Win :=
  if S.romh then .romh else if S.roml then .roml else if S.io1 then .io1 else if S.io2 then .io2 else .unselected

/-- The packed sample word `SW` (R100). -/
def BusCycleSample.toWord (S : BusCycleSample) : SampleWord :=
  S.data ++ BitVec.ofBool S.rw ++ BitVec.ofBool S.ba ++ BitVec.ofBool S.vid ++ BitVec.ofBool S.io2 ++
    BitVec.ofBool S.io1 ++ BitVec.ofBool S.romh ++ BitVec.ofBool S.roml ++ S.addrHi ++ S.addrLo

/-- The sample packed in a word, field by field at the bit positions of R100. -/
def BusCycleSample.ofWord (w : SampleWord) : BusCycleSample where
  addrLo := w.extractLsb' 0 8
  addrHi := w.extractLsb' 8 5
  roml := w.getLsbD 13
  romh := w.getLsbD 14
  io1 := w.getLsbD 15
  io2 := w.getLsbD 16
  vid := w.getLsbD 17
  ba := w.getLsbD 18
  rw := w.getLsbD 19
  data := w.extractLsb' 20 8

/-- `DW = VARIANT ++ SW` (R101). -/
def dispatchWord (v : Variant) (S : BusCycleSample) : DispatchWord := v.tag ++ S.toWord

/-- The variant tag of a dispatch word (R101). -/
def wordVariant (dw : DispatchWord) : Variant := .ofTag (dw.extractLsb' 28 4)

/-- The sample of a dispatch word (R101). -/
def wordSample (dw : DispatchWord) : BusCycleSample := .ofWord (dw.extractLsb' 0 28)

/-- The row of a variant for the served window and the direction, by the table of R107; a blank cell is `IGN`. The two
EasyFlash I/O1 writes are told apart by `addr_lo[1]` (R106). -/
def decodeVariant (v : Variant) (S : BusCycleSample) : Instr :=
  match v with
  | .fixed =>
    match S.win, S.rw with
    | .roml, true => .fxRomlR S.off
    | .romh, true => .fxRomhR S.off
    | _, _ => .ign
  | .magicdesk =>
    match S.win, S.rw with
    | .roml, true => .mdRomlR S.off
    | .io1, false => .mdIo1W S.addrLo S.data
    | _, _ => .ign
  | .c64gs =>
    match S.win, S.rw with
    | .roml, true => .gsRomlR S.off
    | .io1, false => .gsIo1W S.addrLo S.data
    | .io1, true => .gsIo1R S.addrLo
    | _, _ => .ign
  | .ocean =>
    match S.win, S.rw with
    | .roml, true => .ocRomlR S.off
    | .romh, true => .ocRomhR S.off
    | .io1, false => .ocIo1W S.addrLo S.data
    | _, _ => .ign
  | .comal80 =>
    match S.win, S.rw with
    | .roml, true => .coRomlR S.off
    | .romh, true => .coRomhR S.off
    | .io1, false => .coIo1W S.addrLo S.data
    | _, _ => .ign
  | .hucky =>
    match S.win, S.rw with
    | .roml, true => .huRomlR S.off
    | .io1, false => .huIo1W S.addrLo S.data
    | _, _ => .ign
  | .prophet =>
    match S.win, S.rw with
    | .roml, true => .prRomlR S.off
    | .io2, false => .prIo2W S.addrLo S.data
    | _, _ => .ign
  | .simons =>
    match S.win, S.rw with
    | .roml, true => .sbRomlR S.off
    | .romh, true => .sbRomhR S.off
    | .io1, false => .sbIo1W S.addrLo S.data
    | .io1, true => .sbIo1R S.addrLo
    | _, _ => .ign
  | .dinamic =>
    match S.win, S.rw with
    | .roml, true => .diRomlR S.off
    | .io1, true => .diIo1R S.addrLo
    | _, _ => .ign
  | .epyx =>
    match S.win, S.rw with
    | .roml, true => .epRomlR S.off
    | .io1, true => .epIo1R S.addrLo
    | .io2, true => .epIo2R S.addrLo
    | _, _ => .ign
  | .easyflash =>
    match S.win, S.rw with
    | .roml, true => .efRomlR S.off
    | .romh, true => .efRomhR S.off
    | .io1, false =>
      if S.addrLo.getLsbD 1 then .efIo1WCtrl S.addrLo S.data else .efIo1WBank S.addrLo S.data
    | .io2, true => .efIo2R S.addrLo
    | .io2, false => .efIo2W S.addrLo S.data
    | .roml, false => .efRomlW S.off S.data
    | .romh, false => .efRomhW S.off S.data
    | _, _ => .ign
  | .gmod2 =>
    match S.win, S.rw with
    | .roml, true => .gmRomlR S.off
    | .io1, false => .gmIo1W S.addrLo S.data
    | .io1, true => .gmIo1R S.addrLo
    | _, _ => .ign
  | .zaxxon =>
    match S.win, S.rw with
    | .roml, true => .zxRomlR S.off
    | .romh, true => .zxRomhR S.off
    | _, _ => .ign
  | .freezeframe =>
    match S.win, S.rw with
    | .roml, true => .ffRomlR S.off
    | .romh, true => .ffRomhR S.off
    | .io1, true => .ffIo1R S.addrLo
    | .io2, true => .ffIo2R S.addrLo
    | _, _ => .ign
  | .actionreplay =>
    match S.win, S.rw with
    | .roml, true => .arRomlR S.off
    | .roml, false => .arRomlW S.off S.data
    | .romh, true => .arRomhR S.off
    | .romh, false => .arRomhW S.off S.data
    | .io1, false => .arIo1W S.addrLo S.data
    | .io2, true => .arIo2R S.addrLo
    | .io2, false => .arIo2W S.addrLo S.data
    | _, _ => .ign
  | .supersnapshot5 =>
    match S.win, S.rw with
    | .roml, true => .ssRomlR S.off
    | .roml, false => .ssRomlW S.off S.data
    | .romh, true => .ssRomhR S.off
    | .io1, false => .ssIo1W S.addrLo S.data
    | .io1, true => .ssIo1R S.addrLo
    | _, _ => .ign

/-- `Decode` on the assembled sample (R106): the video half first, without a look at the variant. -/
def decodeSample (v : Variant) (S : BusCycleSample) : Instr :=
  if S.vid then
    if S.rw then (if S.romh then .vidRomhR S.off else .vidIgnNr) else .vidIgnW
  else decodeVariant v S

/-- `Decode(DW)` (R106). -/
def decode (dw : DispatchWord) : Instr := decodeSample (wordVariant dw) (wordSample dw)

/-- The host's question: the instruction the decoder reads from a table word. A dispatch word is one 32-bit word, so
nothing is laid out in bytes, and decoding never refuses (R106). -/
def decodeTableWord (_nbits w : Nat) : Option Instr := some (decode (BitVec.ofNat 32 w))

/-- One row of the operation map: `DW &&& mask = pattern` (R107). -/
structure OpcodeRow where
  mnemonic : String
  mask : DispatchWord
  pattern : DispatchWord
deriving DecidableEq, Repr

/-- Rows of the fixed, simple bank-switch and address-decoded variants (opcode_table.json). -/
def tableSimple : List OpcodeRow := [
  ⟨"FX.ROML.R", 0xF00A6000, 0x00082000⟩,
  ⟨"FX.ROMH.R", 0xF00A4000, 0x00084000⟩,
  ⟨"MD.ROML.R", 0xF00A6000, 0x10082000⟩,
  ⟨"MD.IO1.W", 0xF00AE000, 0x10008000⟩,
  ⟨"GS.ROML.R", 0xF00A6000, 0x20082000⟩,
  ⟨"GS.IO1.W", 0xF00AE000, 0x20008000⟩,
  ⟨"GS.IO1.R", 0xF00AE000, 0x20088000⟩,
  ⟨"OC.ROML.R", 0xF00A6000, 0x30082000⟩,
  ⟨"OC.ROMH.R", 0xF00A4000, 0x30084000⟩,
  ⟨"OC.IO1.W", 0xF00AE000, 0x30008000⟩,
  ⟨"CO.ROML.R", 0xF00A6000, 0x40082000⟩,
  ⟨"CO.ROMH.R", 0xF00A4000, 0x40084000⟩,
  ⟨"CO.IO1.W", 0xF00AE000, 0x40008000⟩,
  ⟨"HU.ROML.R", 0xF00A6000, 0x50082000⟩,
  ⟨"HU.IO1.W", 0xF00AE000, 0x50008000⟩,
  ⟨"PR.ROML.R", 0xF00A6000, 0x60082000⟩,
  ⟨"PR.IO2.W", 0xF00BE000, 0x60010000⟩,
  ⟨"SB.ROML.R", 0xF00A6000, 0x70082000⟩,
  ⟨"SB.ROMH.R", 0xF00A4000, 0x70084000⟩,
  ⟨"SB.IO1.W", 0xF00AE000, 0x70008000⟩,
  ⟨"SB.IO1.R", 0xF00AE000, 0x70088000⟩,
  ⟨"DI.ROML.R", 0xF00A6000, 0x80082000⟩,
  ⟨"DI.IO1.R", 0xF00AE000, 0x80088000⟩,
  ⟨"EP.ROML.R", 0xF00A6000, 0x90082000⟩,
  ⟨"EP.IO1.R", 0xF00AE000, 0x90088000⟩,
  ⟨"EP.IO2.R", 0xF00BE000, 0x90090000⟩,
  ⟨"ZX.ROML.R", 0xF00A6000, 0xC0082000⟩,
  ⟨"ZX.ROMH.R", 0xF00A4000, 0xC0084000⟩]

/-- Rows of EASYFLASH (opcode_table.json). -/
def tableEasyFlash : List OpcodeRow := [
  ⟨"EF.ROML.R", 0xF00A6000, 0xA0082000⟩,
  ⟨"EF.ROMH.R", 0xF00A4000, 0xA0084000⟩,
  ⟨"EF.IO1.W.BANK", 0xF00AE002, 0xA0008000⟩,
  ⟨"EF.IO1.W.CTRL", 0xF00AE002, 0xA0008002⟩,
  ⟨"EF.IO2.R", 0xF00BE000, 0xA0090000⟩,
  ⟨"EF.IO2.W", 0xF00BE000, 0xA0010000⟩,
  ⟨"EF.ROML.W", 0xF00A6000, 0xA0002000⟩,
  ⟨"EF.ROMH.W", 0xF00A4000, 0xA0004000⟩]

/-- Rows of GMOD2 (opcode_table.json). -/
def tableGmod2 : List OpcodeRow := [
  ⟨"GM.ROML.R", 0xF00A6000, 0xB0082000⟩,
  ⟨"GM.IO1.W", 0xF00AE000, 0xB0008000⟩,
  ⟨"GM.IO1.R", 0xF00AE000, 0xB0088000⟩]

/-- Rows of the freezer class (opcode_table.json). -/
def tableFreezer : List OpcodeRow := [
  ⟨"FF.ROML.R", 0xF00A6000, 0xD0082000⟩,
  ⟨"FF.ROMH.R", 0xF00A4000, 0xD0084000⟩,
  ⟨"FF.IO1.R", 0xF00AE000, 0xD0088000⟩,
  ⟨"FF.IO2.R", 0xF00BE000, 0xD0090000⟩,
  ⟨"AR.ROML.R", 0xF00A6000, 0xE0082000⟩,
  ⟨"AR.ROML.W", 0xF00A6000, 0xE0002000⟩,
  ⟨"AR.ROMH.R", 0xF00A4000, 0xE0084000⟩,
  ⟨"AR.ROMH.W", 0xF00A4000, 0xE0004000⟩,
  ⟨"AR.IO1.W", 0xF00AE000, 0xE0008000⟩,
  ⟨"AR.IO2.R", 0xF00BE000, 0xE0090000⟩,
  ⟨"AR.IO2.W", 0xF00BE000, 0xE0010000⟩,
  ⟨"SS.ROML.R", 0xF00A6000, 0xF0082000⟩,
  ⟨"SS.ROML.W", 0xF00A6000, 0xF0002000⟩,
  ⟨"SS.ROMH.R", 0xF00A4000, 0xF0084000⟩,
  ⟨"SS.IO1.W", 0xF00AE000, 0xF0008000⟩,
  ⟨"SS.IO1.R", 0xF00AE000, 0xF0088000⟩]

/-- Rows of the video half, any variant (opcode_table.json). -/
def tableVideo : List OpcodeRow := [
  ⟨"VID.ROMH.R", 0x000A4000, 0x000A4000⟩,
  ⟨"VID.IGN.W", 0x000A0000, 0x00020000⟩,
  ⟨"VID.IGN.NR", 0x000A4000, 0x000A0000⟩]

/-- Every row of the operation map but `IGN`, which has mask 0 and is taken exactly when no other row matches (R106). -/
def opcodeTable : List OpcodeRow := tableSimple ++ tableEasyFlash ++ tableGmod2 ++ tableFreezer ++ tableVideo

/-- The row name of an operation, as opcode_table.json spells it. -/
def Instr.mnemonic : Instr → String
  | .fxRomlR _ => "FX.ROML.R"
  | .fxRomhR _ => "FX.ROMH.R"
  | .mdRomlR _ => "MD.ROML.R"
  | .mdIo1W _ _ => "MD.IO1.W"
  | .gsRomlR _ => "GS.ROML.R"
  | .gsIo1W _ _ => "GS.IO1.W"
  | .gsIo1R _ => "GS.IO1.R"
  | .ocRomlR _ => "OC.ROML.R"
  | .ocRomhR _ => "OC.ROMH.R"
  | .ocIo1W _ _ => "OC.IO1.W"
  | .coRomlR _ => "CO.ROML.R"
  | .coRomhR _ => "CO.ROMH.R"
  | .coIo1W _ _ => "CO.IO1.W"
  | .huRomlR _ => "HU.ROML.R"
  | .huIo1W _ _ => "HU.IO1.W"
  | .prRomlR _ => "PR.ROML.R"
  | .prIo2W _ _ => "PR.IO2.W"
  | .sbRomlR _ => "SB.ROML.R"
  | .sbRomhR _ => "SB.ROMH.R"
  | .sbIo1W _ _ => "SB.IO1.W"
  | .sbIo1R _ => "SB.IO1.R"
  | .diRomlR _ => "DI.ROML.R"
  | .diIo1R _ => "DI.IO1.R"
  | .epRomlR _ => "EP.ROML.R"
  | .epIo1R _ => "EP.IO1.R"
  | .epIo2R _ => "EP.IO2.R"
  | .zxRomlR _ => "ZX.ROML.R"
  | .zxRomhR _ => "ZX.ROMH.R"
  | .efRomlR _ => "EF.ROML.R"
  | .efRomhR _ => "EF.ROMH.R"
  | .efIo1WBank _ _ => "EF.IO1.W.BANK"
  | .efIo1WCtrl _ _ => "EF.IO1.W.CTRL"
  | .efIo2R _ => "EF.IO2.R"
  | .efIo2W _ _ => "EF.IO2.W"
  | .efRomlW _ _ => "EF.ROML.W"
  | .efRomhW _ _ => "EF.ROMH.W"
  | .gmRomlR _ => "GM.ROML.R"
  | .gmIo1W _ _ => "GM.IO1.W"
  | .gmIo1R _ => "GM.IO1.R"
  | .ffRomlR _ => "FF.ROML.R"
  | .ffRomhR _ => "FF.ROMH.R"
  | .ffIo1R _ => "FF.IO1.R"
  | .ffIo2R _ => "FF.IO2.R"
  | .arRomlR _ => "AR.ROML.R"
  | .arRomlW _ _ => "AR.ROML.W"
  | .arRomhR _ => "AR.ROMH.R"
  | .arRomhW _ _ => "AR.ROMH.W"
  | .arIo1W _ _ => "AR.IO1.W"
  | .arIo2R _ => "AR.IO2.R"
  | .arIo2W _ _ => "AR.IO2.W"
  | .ssRomlR _ => "SS.ROML.R"
  | .ssRomlW _ _ => "SS.ROML.W"
  | .ssRomhR _ => "SS.ROMH.R"
  | .ssIo1W _ _ => "SS.IO1.W"
  | .ssIo1R _ => "SS.IO1.R"
  | .vidRomhR _ => "VID.ROMH.R"
  | .vidIgnW => "VID.IGN.W"
  | .vidIgnNr => "VID.IGN.NR"
  | .ign => "IGN"

/-- A canonical sample: one select flag for the window, `ba` asserted as in the stimulus notation (R115). -/
def sampleOf (win : Win) (rw : Bool) (hi : BitVec 5) (lo d : Byte) : BusCycleSample where
  addrLo := lo
  addrHi := hi
  roml := win = .roml
  romh := win = .romh
  io1 := win = .io1
  io2 := win = .io2
  vid := false
  ba := true
  rw := rw
  data := d

/-- The upper five address lines of an offset (R103). -/
def offHi (off : Offset) : BitVec 5 := off.extractLsb' 8 5

/-- The lower eight address lines of an offset (R103). -/
def offLo (off : Offset) : Byte := off.extractLsb' 0 8

/-- A CPU-half access to a ROM window; the data of a read is 0, the canonical encoding (R100). -/
def romSample (win : Win) (rw : Bool) (off : Offset) (d : Byte) : BusCycleSample :=
  sampleOf win rw (offHi off) (offLo off) d

/-- A CPU-half access to an I/O window, `addr_hi` = 0 (R115). -/
def ioSample (win : Win) (rw : Bool) (al d : Byte) : BusCycleSample := sampleOf win rw 0 al d

/-- The variant and the canonical sample of an operation: the fields its row fixes, its operands, and 0 in every bit its
row does not name (log 20). `IGN` and the video rows name no variant; tag 0 stands there. -/
def Instr.sample : Instr → Variant × BusCycleSample
  | .fxRomlR off => (.fixed, romSample .roml true off 0)
  | .fxRomhR off => (.fixed, romSample .romh true off 0)
  | .mdRomlR off => (.magicdesk, romSample .roml true off 0)
  | .mdIo1W al d => (.magicdesk, ioSample .io1 false al d)
  | .gsRomlR off => (.c64gs, romSample .roml true off 0)
  | .gsIo1W al d => (.c64gs, ioSample .io1 false al d)
  | .gsIo1R al => (.c64gs, ioSample .io1 true al 0)
  | .ocRomlR off => (.ocean, romSample .roml true off 0)
  | .ocRomhR off => (.ocean, romSample .romh true off 0)
  | .ocIo1W al d => (.ocean, ioSample .io1 false al d)
  | .coRomlR off => (.comal80, romSample .roml true off 0)
  | .coRomhR off => (.comal80, romSample .romh true off 0)
  | .coIo1W al d => (.comal80, ioSample .io1 false al d)
  | .huRomlR off => (.hucky, romSample .roml true off 0)
  | .huIo1W al d => (.hucky, ioSample .io1 false al d)
  | .prRomlR off => (.prophet, romSample .roml true off 0)
  | .prIo2W al d => (.prophet, ioSample .io2 false al d)
  | .sbRomlR off => (.simons, romSample .roml true off 0)
  | .sbRomhR off => (.simons, romSample .romh true off 0)
  | .sbIo1W al d => (.simons, ioSample .io1 false al d)
  | .sbIo1R al => (.simons, ioSample .io1 true al 0)
  | .diRomlR off => (.dinamic, romSample .roml true off 0)
  | .diIo1R al => (.dinamic, ioSample .io1 true al 0)
  | .epRomlR off => (.epyx, romSample .roml true off 0)
  | .epIo1R al => (.epyx, ioSample .io1 true al 0)
  | .epIo2R al => (.epyx, ioSample .io2 true al 0)
  | .zxRomlR off => (.zaxxon, romSample .roml true off 0)
  | .zxRomhR off => (.zaxxon, romSample .romh true off 0)
  | .efRomlR off => (.easyflash, romSample .roml true off 0)
  | .efRomhR off => (.easyflash, romSample .romh true off 0)
  | .efIo1WBank al d => (.easyflash, ioSample .io1 false al d)
  | .efIo1WCtrl al d => (.easyflash, ioSample .io1 false al d)
  | .efIo2R al => (.easyflash, ioSample .io2 true al 0)
  | .efIo2W al d => (.easyflash, ioSample .io2 false al d)
  | .efRomlW off d => (.easyflash, romSample .roml false off d)
  | .efRomhW off d => (.easyflash, romSample .romh false off d)
  | .gmRomlR off => (.gmod2, romSample .roml true off 0)
  | .gmIo1W al d => (.gmod2, ioSample .io1 false al d)
  | .gmIo1R al => (.gmod2, ioSample .io1 true al 0)
  | .ffRomlR off => (.freezeframe, romSample .roml true off 0)
  | .ffRomhR off => (.freezeframe, romSample .romh true off 0)
  | .ffIo1R al => (.freezeframe, ioSample .io1 true al 0)
  | .ffIo2R al => (.freezeframe, ioSample .io2 true al 0)
  | .arRomlR off => (.actionreplay, romSample .roml true off 0)
  | .arRomlW off d => (.actionreplay, romSample .roml false off d)
  | .arRomhR off => (.actionreplay, romSample .romh true off 0)
  | .arRomhW off d => (.actionreplay, romSample .romh false off d)
  | .arIo1W al d => (.actionreplay, ioSample .io1 false al d)
  | .arIo2R al => (.actionreplay, ioSample .io2 true al 0)
  | .arIo2W al d => (.actionreplay, ioSample .io2 false al d)
  | .ssRomlR off => (.supersnapshot5, romSample .roml true off 0)
  | .ssRomlW off d => (.supersnapshot5, romSample .roml false off d)
  | .ssRomhR off => (.supersnapshot5, romSample .romh true off 0)
  | .ssIo1W al d => (.supersnapshot5, ioSample .io1 false al d)
  | .ssIo1R al => (.supersnapshot5, ioSample .io1 true al 0)
  | .vidRomhR off => (.fixed, { romSample .romh true off 0 with vid := true })
  | .vidIgnW => (.fixed, { romSample .unselected false 0 0 with vid := true })
  | .vidIgnNr => (.fixed, { romSample .unselected true 0 0 with vid := true })
  | .ign => (.fixed, romSample .unselected true 0 0)

/-- The encoder: the dispatch word of an operation, in the canonical form of `Instr.sample`. -/
def encode (i : Instr) : DispatchWord := dispatchWord i.sample.1 i.sample.2

end Sys2Proof
end

