-- ==== Sys2Proof/Config.lean ====
section
/-!
DEFINITION. What is fixed for a session (00_scope R7), and the free values: contents of stores to which the spec gives no
value (93_implementation_defined V1 to V3).
-/

namespace Sys2Proof

/-- A state of the two mapping lines, `g` = MAP_G and `x` = MAP_X, true when asserted (10_state R20). -/
structure MapMode where
  g : Bool
  x : Bool
deriving DecidableEq, Repr

/-- The session configuration `Cfg` (R7). Fixed at activation and never written during emulation. `MAP_DEFAULT`,
`RAM_SIZE`, `EEP_WORDS` and the `OFF_MASK_L` of ZAXXON are functions of these fields (10_state R21, 20_memory R61, R62,
41_simple_bank R196, log 16), in Machine/Flags.lean and Machine/Operands.lean; `FREEZE_WRITES` is `Config.freezeWrites`. -/
structure Cfg where
  variant : Variant
  bankCount : Nat
  mapHdr : MapMode
  hasL : Bool
  hasH : Bool
  offMaskL : Offset
  offMaskH : Offset
  fitsInCache : Bool
  dmaTriggerDelay : Nat
  dmaReleaseCount : Nat
  resetDebounceN : Nat
  buttonDebounceN : Nat
  nmiHold : Nat
  autoDisableCycles : Option Nat
  efJumper : Bool
  arAtomic : Bool
  flashSectorBanks : Nat
  layoutInterleaved : Bool
  videoSkipPhase2 : Bool
  tSettle : Nat
  tMux : Nat
  tRead : Nat
  tWlatch : Nat
  tStallA : Nat
  tStallR : Nat
  tVideo : Nat
deriving DecidableEq, Repr

/-- Writes awaited after the NMI: the one count the source fixes (R7, 44_freezer R284). -/
def Config.freezeWrites : Nat := 3

/-- DESIGN CHOICE (log 4). Free value: what `ram[a]` holds at activation number `n` (V1, 10_state R45). -/
opaque Config.ramAtActivation (n a : Nat) : Byte

/-- DESIGN CHOICE (log 5). Free value: what `shadow` byte `a` holds at activation number `n` (V2, 10_state R45). -/
opaque Config.shadowAtActivation (n a : Nat) : Byte

/-- DESIGN CHOICE (log 6). Free value: the ROM byte at index `a`, where no chunk of the image of session `n` covers it
(V3, 70_reset_and_hazards R414). -/
opaque Config.romUncovered (n a : Nat) : Byte

/-- The default of `OFF_MASK_L` for a variant (R7, decisions D22, D36): 4 KiB for ZAXXON, a whole bank for the others. -/
def Cfg.offMaskLDefault : Variant → Offset
  | .zaxxon => 0x0FFF
  | .fixed | .magicdesk | .c64gs | .ocean | .comal80 | .hucky | .prophet | .simons | .dinamic | .epyx | .easyflash
  | .gmod2 | .freezeframe | .actionreplay | .supersnapshot5 => 0x1FFF

/-- The default of `AUTO_DISABLE_CYCLES` for a variant (R7, decision D31): EPYX alone has the countdown. -/
def Cfg.autoDisableDefault : Variant → Option Nat
  | .epyx => some 512
  | .fixed | .magicdesk | .c64gs | .ocean | .comal80 | .hucky | .prophet | .simons | .dinamic | .easyflash | .gmod2
  | .zaxxon | .freezeframe | .actionreplay | .supersnapshot5 => none

/-- The default configuration of a session of one variant. Where R7 gives a default this is it. R7 gives none for the
image, and none for `FITS_IN_CACHE`, `LAYOUT_INTERLEAVED` and the deadlines, which it leaves OPEN; DESIGN CHOICE (log 3) for
these: the plainest image (one bank, ROM-low data, 8 KiB mapping), `FITS_IN_CACHE` true, `LAYOUT_INTERLEAVED` false, and the
least deadlines that meet the constraints of 70_reset_and_hazards R430. -/
def Cfg.defaultFor (v : Variant) : Cfg where
  variant := v
  bankCount := 1
  mapHdr := ⟨false, true⟩
  hasL := true
  hasH := false
  offMaskL := Cfg.offMaskLDefault v
  offMaskH := 0x1FFF
  fitsInCache := true
  dmaTriggerDelay := 0
  dmaReleaseCount := 1
  resetDebounceN := 3
  buttonDebounceN := 3
  nmiHold := 10
  autoDisableCycles := Cfg.autoDisableDefault v
  efJumper := true
  arAtomic := false
  flashSectorBanks := 8
  layoutInterleaved := false
  videoSkipPhase2 := false
  tSettle := 1
  tMux := 2
  tRead := 4
  tWlatch := 3
  tStallA := 5
  tStallR := 6
  tVideo := 3

/-- DESIGN CHOICE (log 3). The configuration of the session `State.reset` is in: the default of FIXED. The spec names no
image for it, and leaves `FITS_IN_CACHE`, `LAYOUT_INTERLEAVED` and the deadlines OPEN without a default. -/
def Cfg.default : Cfg := Cfg.defaultFor .fixed

/-- The configuration taken over to a session of variant `v`. In another variant the two parameters whose default the
variant decides take that default, all others stay (R7, log 2). -/
def Cfg.forVariant (cfg : Cfg) (v : Variant) : Cfg :=
  if cfg.variant = v then cfg
  else
    { cfg with
      variant := v
      offMaskL := Cfg.offMaskLDefault v
      autoDisableCycles := Cfg.autoDisableDefault v }

end Sys2Proof
end

