-- ==== Sys2Proof/Machine/State.lean ====
section
/-!
DEFINITION. The state of the block as plain data (10_state), the inputs the outside presents, the outputs of a step, and
the state after reset. The groups are the spec's own structures: BankRegister (R12), output latches (R20 to R24),
DMAStallState (R25), ResetState (R26), FreezeState (R27), flash and EEPROM protocol state (R29, R30), stores (R31).
-/

namespace Sys2Proof.Machine

/-- A byte store: (index, byte) cells in one canonical form, indices strictly rising (`Memory.wf`). An index with no cell
holds the byte `unlistedByte` names. The operations are in Machine/Memory.lean. -/
abbrev Memory := List Host.Cell

/-- The spaces of 20_memory R60 to R62 and the shadow array of 10_state R40. -/
inductive Space where
  | rom | ram | eep | shadow
deriving DecidableEq, Repr

/-! ### Inputs of a step -/

/-- All logical lines at one sampling instant (40_cycle R141, R143), true when asserted; `rw` is true on a read. -/
structure Lines where
  addr : Offset
  rw : Bool
  vid : Bool
  ba : Bool
  selRoml : Bool
  selRomh : Bool
  selIo1 : Bool
  selIo2 : Bool
deriving DecidableEq, Repr

/-- What the environment presents to one invocation: the captures of both sampling phases, the data lines at the
write-latch deadline (R154), and RESET_IN and BUTTON_IN at the tick stage (R152). -/
structure Env where
  p1 : Lines
  p2 : Lines
  pw : Byte
  resetIn : Bool
  buttonIn : Bool
deriving DecidableEq, Repr

/-- The load-time errors of 60_exceptions R371. -/
inductive LoadError where
  | badSignature | unsupportedType | truncated | ioFailure | emptyImage | tooManyBanks
deriving DecidableEq, Repr

/-- What the external loader hands to activation (70_reset_and_hazards R410, R414): a typed failure, or the parsed
configuration with the bytes of the image and of the persisted EEPROM array. -/
inductive LoadResult where
  | failure (k : LoadError)
  | ok (cfg : Cfg) (rom : List Host.Cell) (eep : List Host.Cell)
deriving DecidableEq, Repr

/-- One thing the outside does to the block: the clock-transition interrupt with its lines (60_exceptions R372),
activation (R410), deactivation (R415). -/
inductive Input where
  | clkIrq (env : Env)
  | activate (r : LoadResult)
  | deactivate
deriving DecidableEq, Repr

/-! ### Outputs of a step -/

/-- The records of 10_state R41. -/
inductive OutEvent where
  | persistEep (index : Nat) (b : Byte)
  | persistFlash (bank : Byte) (w : RomWindow) (off : Offset) (b : Byte)
  | persistFlashSector (w : RomWindow) (firstBank : Nat)
  | prefetch (bank : Byte)
deriving DecidableEq, Repr

/-! ### Groups of the state -/

/-- BankRegister, the general registers x[0] to x[3] (R12 to R16). -/
structure BankRegister where
  bank : Byte
  ctrl : Byte
  ramexp : Bool
  carten : Bool
deriving DecidableEq, Repr

/-- DMAStallState (R25). -/
structure DmaStallState where
  pending : Option Nat
  release : Option Nat
  bank : Byte
deriving DecidableEq, Repr

/-- ResetState (R26). -/
structure ResetState where
  cnt : Nat
  pressed : Bool
  released : Bool
deriving DecidableEq, Repr

/-- The three states of the freeze machine (R27, 44_freezer R280). -/
inductive FreezePhase where
  | idle | armed | active
deriving DecidableEq, Repr

/-- FreezeState (R27). -/
structure FreezeState where
  fs : FreezePhase
  btnCnt : Nat
  nmiCnt : Nat
  wrCnt : Nat
deriving DecidableEq, Repr

/-- The position in a flash command stream (R29), FL_READ to FL_E2. -/
inductive FlashState where
  | read | u1 | u2 | program | eraseArm | e1 | e2
deriving DecidableEq, Repr

/-- One flash command state per ROM window (R29). -/
structure FlashProtocol where
  l : FlashState
  h : FlashState
deriving DecidableEq, Repr

/-- The phases of the EEPROM interface (R30), EE_WAITSTART to EE_DONE. -/
inductive EepPhase where
  | waitStart | cmd | dataIn | dataInAll | readOut | done
deriving DecidableEq, Repr

/-- The EEPROM interface state (R30); `dOut` is `ee_do`. -/
structure EepromIface where
  cs : Bool
  clk : Bool
  di : Bool
  dOut : Bool
  wen : Bool
  phase : EepPhase
  sr : BitVec 16
  n : Nat
  addr : BitVec 10
  out : BitVec 16
deriving DecidableEq, Repr

/-- The EEPROM interface at activation (R45). -/
def EepromIface.initial : EepromIface where
  cs := false
  clk := false
  di := false
  dOut := false
  wen := false
  phase := .waitStart
  sr := 0
  n := 0
  addr := 0
  out := 0

/-- The whole machine. `inputs` is the model's own (log 1), `sessionNo` counts activations for the free values (log 4 to
6); `drive`, `events` and `loadError` are the outputs of the last step (log 8); every other field is the spec's. -/
structure State where
  active : Bool
  sessionNo : Nat
  cfg : Cfg
  inputs : List Input
  loadError : Option LoadError
  reg : BankRegister
  map : MapMode
  nmiOut : Bool
  stallOut : Bool
  drive : Option Byte
  events : List OutEvent
  dma : DmaStallState
  rst : ResetState
  frz : FreezeState
  capCnt : Nat
  flash : FlashProtocol
  eepi : EepromIface
  rom : Memory
  ram : Memory
  eep : Memory
  shadow : Memory
  resident : List Byte
deriving DecidableEq, Repr

/-- The reasons a step could fault: none. "Run-time protocol conditions have no exception channel" (60_exceptions R370),
so no operation raises one, and none is missing (safe). -/
inductive Fault where
deriving DecidableEq, Repr

/-- The reasons a step could have no meaning. -/
inductive Refusal where
  /-- An arm of `exec` whose operation has no meaning yet would raise it; no arm does (safe: it stops). -/
  | notModelled (mnemonic : String)
deriving DecidableEq, Repr

/-- The machine right after reset: a freshly activated session (10_state R45, 70_reset_and_hazards R411) of the
configuration `Cfg.default` (log 3), no input presented yet (R46). MAP is that configuration's MAP_DEFAULT, and the event
is what its activation returns (R413). -/
def State.reset : State where
  active := true
  sessionNo := 0
  cfg := Cfg.default
  inputs := []
  loadError := none
  reg := { bank := 0, ctrl := 0, ramexp := false, carten := true }
  map := ⟨false, true⟩
  nmiOut := false
  stallOut := false
  drive := none
  events := [.prefetch 0]
  dma := { pending := none, release := none, bank := 0 }
  rst := { cnt := 0, pressed := false, released := false }
  frz := { fs := .idle, btnCnt := 0, nmiCnt := 0, wrCnt := 0 }
  capCnt := 0
  flash := ⟨.read, .read⟩
  eepi := EepromIface.initial
  rom := []
  ram := []
  eep := []
  shadow := []
  resident := [0]

end Sys2Proof.Machine
end

