-- ==== Sys2Proof/Machine/Memory.lean ====
section
/-!
DEFINITION. Byte stores as lists of cells. A store has a fill: `some b` when every index without a cell reads `b`, `none`
when such an index holds a free value, of which no cell can be said to be equal. Canonical form: indices strictly rising,
no cell equal to the fill.
-/

namespace Sys2Proof.Machine

/-- The byte of the cell at index `a`, if there is one. -/
def Memory.find (a : Nat) : Memory → Option Byte
  | [] => none
  | c :: m => if c.1 = a then some c.2 else Memory.find a m

/-- The store without a cell at index `a`. -/
def Memory.erase (a : Nat) (m : Memory) : Memory := m.filter fun c => c.1 ≠ a

/-- The store with the cell `(a, b)` in its place. -/
def Memory.insert (a : Nat) (b : Byte) : Memory → Memory
  | [] => [(a, b)]
  | c :: m => if a < c.1 then (a, b) :: c :: m else if c.1 = a then (a, b) :: m else c :: Memory.insert a b m

/-- Writing one byte; the fill value removes the cell. -/
def Memory.write (fill : Option Byte) (a : Nat) (b : Byte) (m : Memory) : Memory :=
  if fill = some b then Memory.erase a m else Memory.insert a b m

/-- Writing `b` at every index from `base` to `base + len - 1` at once (the sector erase of 42_easyflash R230). -/
def Memory.fillRange (fill : Option Byte) (base len : Nat) (b : Byte) (m : Memory) : Memory :=
  m.filter (fun c => c.1 < base) ++
    ((if fill = some b then [] else (List.range len).map fun k => (base + k, b)) ++
      m.filter (fun c => base + len ≤ c.1))

/-- The canonical store that holds the given cells below `bound`, a later cell of the list over an earlier one. -/
def Memory.load (fill : Option Byte) (bound : Nat) (cells : List Host.Cell) : Memory :=
  cells.foldl (fun m c => if c.1 < bound then Memory.write fill c.1 c.2 m else m) []

/-- The canonical form. -/
abbrev Memory.wf (fill : Option Byte) (m : Memory) : Prop :=
  m.Pairwise (fun c d => c.1 < d.1) ∧ ∀ c ∈ m, fill ≠ some c.2

end Sys2Proof.Machine
end

