-- ==== Sys2Proof/Machine/Operands.lean ====
section
/-!
DEFINITION. Operand forms: the sample a pair of captures yields (40_cycle R141 to R144, R154), the bank numbers and
offsets an operation forms from its operands (30_encoding R103, R117), and the store indices they select (20_memory R60,
R61, R64).
-/

namespace Sys2Proof.Machine

/-! ### The sample of an invocation -/

/-- The phase-2 capture, or the phase-1 capture reused on a board that skips the second step in the video half
(40_cycle R143, 46_video_window R363). -/
def secondCapture (cfg : Cfg) (env : Env) : Lines :=
  if cfg.videoSkipPhase2 && env.p1.vid then env.p1 else env.p2

/-- `Assemble` (R144): phase 1 supplies `addr_lo`, `rw`, `vid`, `ba`, phase 2 the rest; the data byte is the one on
the lines at the write-latch deadline (R154). On a read it is undefined and no rule reads it: any byte the environment
presents stands there (log 14). -/
def assemble (cfg : Cfg) (env : Env) : BusCycleSample where
  addrLo := env.p1.addr.extractLsb' 0 8
  addrHi := (secondCapture cfg env).addr.extractLsb' 8 5
  roml := (secondCapture cfg env).selRoml
  romh := (secondCapture cfg env).selRomh
  io1 := (secondCapture cfg env).selIo1
  io2 := (secondCapture cfg env).selIo2
  vid := env.p1.vid
  ba := env.p1.ba
  rw := env.p1.rw
  data := env.pw

/-- The lines of a sample, stable over the whole invocation (R144). -/
def linesOf (S : BusCycleSample) : Lines where
  addr := S.off
  rw := S.rw
  vid := S.vid
  ba := S.ba
  selRoml := S.roml
  selRomh := S.romh
  selIo1 := S.io1
  selIo2 := S.io2

/-- An environment that presents one sample, with stable lines. -/
def envOf (S : BusCycleSample) (resetIn buttonIn : Bool) : Env where
  p1 := linesOf S
  p2 := linesOf S
  pw := S.data
  resetIn := resetIn
  buttonIn := buttonIn

/-! ### Configuration values an operand is reduced with -/

/-- `HAS_L`, `HAS_H`: whether the image holds data for a window (R7). -/
def hasWindow (cfg : Cfg) : RomWindow → Bool
  | .l => cfg.hasL
  | .h => cfg.hasH

/-- `OFF_MASK_w` (R7). For ZAXXON `OFF_MASK_L` is 0x0FFF, the 4 KiB ROM-low part (41_simple_bank R196, decision D36),
whatever the field holds (log 16). -/
def offMask (cfg : Cfg) : RomWindow → Offset
  | .l => if cfg.variant = .zaxxon then 0x0FFF else cfg.offMaskL
  | .h => cfg.offMaskH

/-- `RAM_SIZE` (20_memory R61). -/
def ramSize (cfg : Cfg) : Nat :=
  match cfg.variant with
  | .easyflash => 256
  | .actionreplay => 8192
  | .supersnapshot5 => 32768
  | .fixed | .magicdesk | .c64gs | .ocean | .comal80 | .hucky | .prophet | .simons | .dinamic | .epyx | .gmod2
  | .zaxxon | .freezeframe => 0

/-- `EEP_WORDS` (20_memory R62). -/
def eepWords (cfg : Cfg) : Nat :=
  match cfg.variant with
  | .gmod2 => 1024
  | .fixed | .magicdesk | .c64gs | .ocean | .comal80 | .hucky | .prophet | .simons | .dinamic | .epyx | .easyflash
  | .zaxxon | .freezeframe | .actionreplay | .supersnapshot5 => 0

/-! ### Bank numbers and indices -/

/-- Bank reduction: a number taken from data or address bits becomes `b mod BANK_COUNT` (R117 (a)). -/
def reduceBank (cfg : Cfg) (b : Nat) : Byte := BitVec.ofNat 8 (b % cfg.bankCount)

/-- The field `v[lo + len - 1 : lo]` of a byte, as the unsigned number a bank is taken from (R103). -/
def byteField (v : Byte) (lo len : Nat) : Nat := (v.extractLsb' lo len).toNat

/-- The bank `(D[2] | D[4] << 1)` of SUPERSNAPSHOT5 (44_freezer R300). -/
def ssBankField (d : Byte) : Nat := (d.getLsbD 2).toNat ||| ((d.getLsbD 4).toNat <<< 1)

/-- The linear index of the logical ROM element (bank, w, off) of R60: one 8192-byte stretch for each bank and window.
It is the model's numbering of the triples (log 13). -/
def romIndex (b : Byte) (w : RomWindow) (off : Offset) : Nat :=
  (b.toNat * 2 + match w with | .l => 0 | .h => 1) * 8192 + off.toNat

/-- `RamIdx(off)` of SUPERSNAPSHOT5: `((zext(BANK) << 13) | zext(off)) mod RAM_SIZE` (44_freezer section 4). -/
def ramIdx (s : State) (off : Offset) : Nat := ((s.reg.bank.toNat <<< 13) ||| off.toNat) % ramSize s.cfg

/-- The offset `page | zext_13(AL)` of a ROM or RAM page shown in an I/O window. -/
def pageOffset (page : Offset) (al : Byte) : Offset := page ||| al.setWidth 13

/-- The shadow byte of an I/O window at `AL` (10_state R40): IO1 at 0 to 255, IO2 at 256 to 511. -/
def shadowIndex (io2 : Bool) (al : Byte) : Nat := (if io2 then 256 else 0) + al.toNat

end Sys2Proof.Machine
end

