-- ==== Sys2Proof/Machine/Flags.lean ====
section
/-!
DEFINITION. The flags and the mapping lines: the four mapping modes (30_encoding R110), the mapping default and its
polarity fix-up (10_state R21), and the modes that control-register bits select (R111, R112).
-/

namespace Sys2Proof.Machine

/-- OFF = (0, 0) (R110). -/
def modeOff : MapMode := ⟨false, false⟩

/-- M8K = (0, 1) (R110). -/
def modeM8k : MapMode := ⟨false, true⟩

/-- M16K = (1, 1) (R110). -/
def modeM16k : MapMode := ⟨true, true⟩

/-- ULTIMAX = (1, 0) (R110). -/
def modeUltimax : MapMode := ⟨true, false⟩

/-- The two bits a table stores a mode in, `MAP_G ++ MAP_X` (R110). -/
def modeBits (m : MapMode) : BitVec 2 := BitVec.ofBool m.g ++ BitVec.ofBool m.x

/-- `PolarityFixup`: an OCEAN image of 64 banks or more has MAP_G deasserted (10_state R21). -/
def polarityFixup (v : Variant) (n : Nat) (m : MapMode) : MapMode :=
  if v = .ocean ∧ 64 ≤ n then ⟨false, m.x⟩ else m

/-- `MAP_DEFAULT`, the header-declared default after the fix-up (10_state R21). -/
def mapDefault (cfg : Cfg) : MapMode := polarityFixup cfg.variant cfg.bankCount cfg.mapHdr

/-- The freezer class (00_scope section 6). -/
def isFreezer : Variant → Bool
  | .freezeframe | .actionreplay | .supersnapshot5 => true
  | .fixed | .magicdesk | .c64gs | .ocean | .comal80 | .hucky | .prophet | .simons | .dinamic | .epyx | .easyflash
  | .gmod2 | .zaxxon => false

/-- RAMEXP at activation and after `Reinit()` (10_state R45). -/
def initialRamexp (v : Variant) : Bool := v = .supersnapshot5

/-- `c` if `AUTO_DISABLE_CYCLES = some c`, else 0 (10_state R45). -/
def initialCapCnt (cfg : Cfg) : Nat := cfg.autoDisableCycles.getD 0

/-- The COMAL80 mode field `D[7:5]`: `none` for 0b111, which disables (41_simple_bank R182). -/
def comalMode (d : Byte) : Option MapMode :=
  if d.extractLsb' 5 3 = 0b111#3 then none
  else if d.extractLsb' 5 3 = 0b010#3 then some modeM8k
  else some modeM16k

/-- The index `(EF_JUMPER << 3) | CTRL[2:0]` of the EasyFlash mode table (30_encoding R112). -/
def efIndex (jumper : Bool) (d : Byte) : BitVec 4 := BitVec.ofBool jumper ++ d.extractLsb' 0 3

/-- The 16 entries of the EasyFlash mode table (30_encoding R112). -/
def efMode (i : BitVec 4) : MapMode :=
  match i.toNat with
  | 0 | 1 => modeOff
  | 2 | 3 => modeM8k
  | 4 => modeOff
  | 5 => modeUltimax
  | 6 => modeM8k
  | 7 => modeM16k
  | 8 | 9 => modeUltimax
  | 10 | 11 => modeM16k
  | 12 => modeOff
  | 13 => modeUltimax
  | 14 => modeM8k
  | _ => modeM16k

/-- The control bits that put the AtomicPower RAM into ROM-high: bit 5 with the two low bits 0b10 (44_freezer R294). -/
def atomicBits (cfg : Cfg) (d : Byte) : Bool := cfg.arAtomic && d.getLsbD 5 && d.extractLsb' 0 2 = 0b10#2

/-- The mapping an ACTIONREPLAY control write that does not disable selects (44_freezer R294). -/
def arMode (cfg : Cfg) (d : Byte) : MapMode :=
  if atomicBits cfg d then modeM16k else ⟨d.getLsbD 0, !d.getLsbD 1⟩

/-- The mapping a SUPERSNAPSHOT5 control write that does not disable selects (44_freezer R300). -/
def ssMode (d : Byte) : MapMode := ⟨!d.getLsbD 0, d.getLsbD 1⟩

/-- `AtomicRam = AR_ATOMIC and RAMEXP = 1 and CTRL[1:0] = 0b10` (44_freezer section 3). -/
def atomicRam (s : State) : Bool := s.cfg.arAtomic && s.reg.ramexp && s.reg.ctrl.extractLsb' 0 2 = 0b10#2

end Sys2Proof.Machine
end

