-- ==== Sys2Proof/Machine/Ops.lean ====
section
/-!
DEFINITION. The named operations every bus operation is written with: the memory primitives (20_memory R63), register and
latch writes, `Drive`, `Emit`, `SetBank`, `SetMap` (40_cycle R148 to R150), the store helpers (45_memory_mux_dma R330 to
R333), the DMA stall controller (R335, R336), freeze control (44_freezer R280 to R285), the auto-disable capacitor
(40_cycle R153), and the reset monitor with `Reinit()` (60_exceptions R375, R376), the block's one exception.
-/

namespace Sys2Proof.Machine

/-! ### Memory primitives -/

/-- The fill of a store: an EEPROM with nothing persisted is all 0xFF (70_reset_and_hazards R414, log 7); the other
stores have no byte the spec names (log 4, 5, 6). -/
def fillOf : Space → Option Byte
  | .eep => some 0xFF
  | .rom | .ram | .shadow => none

/-- What an index without a cell reads as, in session `n`: the fill, or the free value of the store (V1 to V3). -/
def unlistedByte (sp : Space) (n a : Nat) : Byte :=
  match sp with
  | .rom => Config.romUncovered n a
  | .ram => Config.ramAtActivation n a
  | .eep => 0xFF
  | .shadow => Config.shadowAtActivation n a

/-- The cells of a space. -/
def storeOf (s : State) : Space → Memory
  | .rom => s.rom
  | .ram => s.ram
  | .eep => s.eep
  | .shadow => s.shadow

/-- The state with the cells of a space replaced. -/
def setStore (sp : Space) (m : Memory) (s : State) : State :=
  match sp with
  | .rom => { s with rom := m }
  | .ram => { s with ram := m }
  | .eep => { s with eep := m }
  | .shadow => { s with shadow := m }

/-- `MemRead(sp, a, 1)`, pure (R63). The ROM index is `romIndex bank w off`. -/
def memRead (sp : Space) (a : Nat) (s : State) : Byte :=
  (Memory.find a (storeOf s sp)).getD (unlistedByte sp s.sessionNo a)

/-- `MemWrite(sp, a, 1, v)` (R63). -/
def memWrite (sp : Space) (a : Nat) (v : Byte) (s : State) : State :=
  setStore sp (Memory.write (fillOf sp) a v (storeOf s sp)) s

/-! ### Registers, latches and outputs -/

/-- `Emit(e)` (10_state R41). -/
def emit (e : OutEvent) (s : State) : State := { s with events := s.events ++ [e] }

/-- `Drive(b)` (40_cycle R150). -/
def driveByte (b : Byte) (s : State) : State := { s with drive := some b }

/-- `SetMap(m)`: both mapping lines, never CARTEN (40_cycle R149). -/
def setMap (m : MapMode) (s : State) : State := { s with map := m }

/-- A write of CTRL (10_state R14). -/
def setCtrl (d : Byte) (s : State) : State := { s with reg := { s.reg with ctrl := d } }

/-- A write of RAMEXP (10_state R15). -/
def setRamexp (b : Bool) (s : State) : State := { s with reg := { s.reg with ramexp := b } }

/-- A write of CARTEN (10_state R16). -/
def setCarten (b : Bool) (s : State) : State := { s with reg := { s.reg with carten := b } }

/-- CARTEN and both mapping lines, as the enabling and disabling register writes set them. -/
def enableWith (m : MapMode) (s : State) : State := setMap m (setCarten true s)

/-- CARTEN cleared and MAP = OFF: the cartridge off the bus. -/
def disable (s : State) : State := setMap modeOff (setCarten false s)

/-- `cap_cnt <- c` when `AUTO_DISABLE_CYCLES = some c` (10_state R28). -/
def rearmCap (s : State) : State :=
  match s.cfg.autoDisableCycles with
  | some c => { s with capCnt := c }
  | none => s

/-- The general register `x[i]`, zero-extended (10_state R12, 00_scope R9). -/
def readX (i : Fin 4) (s : State) : Byte :=
  match i with
  | 0 => s.reg.bank
  | 1 => s.reg.ctrl
  | 2 => (BitVec.ofBool s.reg.ramexp).setWidth 8
  | 3 => (BitVec.ofBool s.reg.carten).setWidth 8

/-! ### DMA stall controller -/

/-- Every bank of the image, in order. -/
def allBanks (cfg : Cfg) : List Byte := (List.range cfg.bankCount).map (BitVec.ofNat 8)

/-- `Emit(Prefetch(b)) ; resident <- {b}` (45_memory_mux_dma R338). -/
def prefetch (b : Byte) (s : State) : State := emit (.prefetch b) { s with resident := [b] }

/-- `DmaRequest(nb)`, on every change of the active bank (R335). -/
def dmaRequest (nb : Byte) (s : State) : State :=
  if s.cfg.fitsInCache then s
  else
    match s.dma.release with
    | some _ => prefetch nb { s with dma := { s.dma with bank := nb, release := some s.cfg.dmaReleaseCount } }
    | none => { s with dma := { s.dma with bank := nb, pending := some s.cfg.dmaTriggerDelay } }

/-- `SetBank(nb)`: a write of the bank already active is no switch (40_cycle R148). -/
def setBank (nb : Byte) (s : State) : State :=
  if nb = s.reg.bank then s else dmaRequest nb { s with reg := { s.reg with bank := nb } }

/-- `DmaTick()` (R336). -/
def dmaTick (s : State) : State :=
  match s.dma.release with
  | some 0 => { s with stallOut := false, dma := { s.dma with release := none } }
  | some (n + 1) => { s with dma := { s.dma with release := some n } }
  | none =>
    match s.dma.pending with
    | some 0 =>
      prefetch s.dma.bank
        { s with stallOut := true, dma := { s.dma with pending := none, release := some s.cfg.dmaReleaseCount } }
    | some (n + 1) => { s with dma := { s.dma with pending := some n } }
    | none => s

/-! ### The store helpers -/

/-- `RomByte(b, w, off)`: the logical byte at the masked offset (R330, R333). -/
def romByte (b : Byte) (w : RomWindow) (off : Offset) (s : State) : Byte :=
  memRead .rom (romIndex b w (off &&& offMask s.cfg w)) s

/-- `RomRead(b, w, off)`: nothing is driven while CARTEN = 0 or without data for the window (R333). -/
def romRead (b : Byte) (w : RomWindow) (off : Offset) (s : State) : State :=
  if s.reg.carten && hasWindow s.cfg w then driveByte (romByte b w off s) s else s

/-- The byte `RomReadHiOrMirror(b, off)` drives, if it drives one (44_freezer R280). -/
def hiOrMirrorByte (b : Byte) (off : Offset) (s : State) : Option Byte :=
  if s.reg.carten then
    if s.cfg.hasH then some (romByte b .h off s)
    else if s.cfg.hasL then some (romByte b .l off s)
    else none
  else none

/-- Drive the byte, if there is one. -/
def driveOption (o : Option Byte) (s : State) : State :=
  match o with
  | some b => driveByte b s
  | none => s

/-- `RomReadHiOrMirror(b, off)` (44_freezer R280). -/
def romReadHiOrMirror (b : Byte) (off : Offset) (s : State) : State := driveOption (hiOrMirrorByte b off s) s

/-! ### The auto-disable capacitor -/

/-- `CapTick()` (40_cycle R153). -/
def capTick (s : State) : State :=
  match s.cfg.autoDisableCycles, s.reg.carten with
  | some _, true => if s.capCnt = 0 then disable s else { s with capCnt := s.capCnt - 1 }
  | _, _ => s

/-! ### Freeze control -/

/-- The per-variant part of `EnterActive` (44_freezer R285). -/
def mapFrozen (s : State) : State :=
  match s.cfg.variant with
  | .actionreplay => setRamexp false (setCtrl 0 (setBank 0 s))
  | .supersnapshot5 => setRamexp true (setCtrl 0 (setBank 0 s))
  | .fixed | .magicdesk | .c64gs | .ocean | .comal80 | .hucky | .prophet | .simons | .dinamic | .epyx | .easyflash
  | .gmod2 | .zaxxon | .freezeframe => s

/-- `EnterActive()` (44_freezer R285). -/
def enterActive (s : State) : State :=
  mapFrozen (enableWith modeUltimax { s with frz := { s.frz with fs := .active, nmiCnt := 0 }, nmiOut := false })

/-- `FreezeObserve(S)` of a non-video sample with direction `rw` (44_freezer R284). -/
def freezeObserve (rw : Bool) (s : State) : State :=
  if isFreezer s.cfg.variant && s.frz.fs = .armed then
    if rw then { s with frz := { s.frz with wrCnt := 0 } }
    else if s.frz.wrCnt + 1 = Config.freezeWrites then
      enterActive { s with frz := { s.frz with wrCnt := s.frz.wrCnt + 1 } }
    else { s with frz := { s.frz with wrCnt := s.frz.wrCnt + 1 } }
  else s

/-- `NmiTick()` (44_freezer R283). -/
def nmiTick (s : State) : State :=
  if isFreezer s.cfg.variant && s.nmiOut then
    if s.frz.nmiCnt = 0 then { s with nmiOut := false }
    else { s with frz := { s.frz with nmiCnt := s.frz.nmiCnt - 1 } }
  else s

/-- `ButtonEdge()` (44_freezer R282). -/
def buttonEdge (s : State) : State :=
  if s.frz.fs = .idle then
    { s with frz := { s.frz with fs := .armed, nmiCnt := s.cfg.nmiHold, wrCnt := 0 }, nmiOut := true }
  else s

/-- `ButtonTick(b)` (44_freezer R281). -/
def buttonTick (b : Bool) (s : State) : State :=
  if isFreezer s.cfg.variant then
    if b then
      if s.frz.btnCnt < s.cfg.buttonDebounceN then
        if s.frz.btnCnt + 1 = s.cfg.buttonDebounceN then
          buttonEdge { s with frz := { s.frz with btnCnt := s.frz.btnCnt + 1 } }
        else { s with frz := { s.frz with btnCnt := s.frz.btnCnt + 1 } }
      else s
    else { s with frz := { s.frz with btnCnt := 0 } }
  else s

/-! ### The exception: `Reinit()` and the reset monitor -/

/-- The elements `Reinit()` gives a value, without the prefetch of bank 0 (60_exceptions R376). -/
def reinitProtocol (s : State) : State :=
  { s with
    reg := { bank := 0, ctrl := 0, ramexp := initialRamexp s.cfg.variant, carten := true }
    map := mapDefault s.cfg
    frz := { s.frz with fs := .idle, wrCnt := 0, nmiCnt := 0 }
    nmiOut := false
    dma := { pending := none, release := none, bank := 0 }
    stallOut := false
    capCnt := initialCapCnt s.cfg
    flash := ⟨.read, .read⟩
    eepi := { EepromIface.initial with wen := s.eepi.wen } }

/-- `Reinit()`, taking the block's one exception (60_exceptions R376). It saves nothing, transfers control nowhere and has
no return (R378, R379). -/
def reinit (s : State) : State :=
  if s.cfg.fitsInCache then { reinitProtocol s with resident := allBanks s.cfg } else prefetch 0 (reinitProtocol s)

/-- `ResetTick(r)`: the debounce that fires `Reinit()` once per reset pulse (60_exceptions R375). -/
def resetTick (r : Bool) (s : State) : State :=
  if r then
    if s.rst.cnt < s.cfg.resetDebounceN then
      if s.rst.cnt + 1 = s.cfg.resetDebounceN then
        reinit { s with rst := { cnt := s.rst.cnt + 1, pressed := true, released := false } }
      else { s with rst := { s.rst with cnt := s.rst.cnt + 1, released := false } }
    else { s with rst := { s.rst with released := false } }
  else { s with rst := { cnt := 0, pressed := false, released := s.rst.pressed || s.rst.released } }

/-! ### The stages around an operation -/

/-- `drive <- none ; events <- []` (40_cycle R140). -/
def beginInvocation (s : State) : State := { s with drive := none, events := [] }

/-- The shadow write of `Dispatch`: every non-video write routed to IO1 or IO2, before decode (40_cycle R146). -/
def recordShadow (S : BusCycleSample) (s : State) : State :=
  if S.vid || S.rw then s
  else
    match S.win with
    | .io1 => memWrite .shadow (shadowIndex false S.addrLo) S.data s
    | .io2 => memWrite .shadow (shadowIndex true S.addrLo) S.data s
    | .romh | .roml | .unselected => s

/-- What follows the operation in stage 5: a video-half invocation is not observed (40_cycle R140, R145). -/
def afterOperation (S : BusCycleSample) (s : State) : State := if S.vid then s else freezeObserve S.rw s

/-- Stage 7, in this order (40_cycle R152). The read-data driver of stage 6 is the identity (R150). -/
def ticks (env : Env) (s : State) : State :=
  resetTick env.resetIn (buttonTick env.buttonIn (nmiTick (capTick (dmaTick s))))

end Sys2Proof.Machine
end

