-- ==== Sys2Proof/Machine/SimpleBank.lean ====
section
/-!
DEFINITION. The operations of the fixed, simple bank-switch and address-decoded variants (41_simple_bank R170 to R197).
The register layouts are the spec's decisions D23 to D31 and D36 (log 19).
-/

namespace Sys2Proof.Machine

/-- A register write that takes the new bank from a number: `SetBank(b mod BANK_COUNT)` (R117). -/
def selectBank (b : Nat) (s : State) : State := setBank (reduceBank s.cfg b) s

/-- `FX.ROML.R` (R170). -/
def execFxRomlR (off : Offset) (s : State) : Host.Outcome State Fault Refusal := .next (romRead 0 .l off s)

/-- `FX.ROMH.R` (R171). -/
def execFxRomhR (off : Offset) (s : State) : Host.Outcome State Fault Refusal := .next (romRead 0 .h off s)

/-- `MD.ROML.R` (R172). -/
def execMdRomlR (off : Offset) (s : State) : Host.Outcome State Fault Refusal := .next (romRead s.reg.bank .l off s)

/-- `MD.IO1.W` (R173): bit 7 disables and keeps BANK; otherwise the seven low bits are the bank. -/
def execMdIo1W (_al d : Byte) (s : State) : Host.Outcome State Fault Refusal :=
  .next <|
    if d.getLsbD 7 then disable (setCtrl d s)
    else enableWith (mapDefault s.cfg) (selectBank (byteField d 0 7) (setCtrl d s))

/-- `GS.ROML.R` (R174). -/
def execGsRomlR (off : Offset) (s : State) : Host.Outcome State Fault Refusal := .next (romRead s.reg.bank .l off s)

/-- `GS.IO1.W` (R175): the bank comes from the address. -/
def execGsIo1W (al _d : Byte) (s : State) : Host.Outcome State Fault Refusal := .next (selectBank (byteField al 0 6) s)

/-- `GS.IO1.R` (R176): the read selects bank 0 and drives nothing. -/
def execGsIo1R (_al : Byte) (s : State) : Host.Outcome State Fault Refusal := .next (setBank 0 s)

/-- `OC.ROML.R` (R177). -/
def execOcRomlR (off : Offset) (s : State) : Host.Outcome State Fault Refusal := .next (romRead s.reg.bank .l off s)

/-- `OC.ROMH.R` (R178): the ROM-high window mirrors the ROM-low data of the active bank. -/
def execOcRomhR (off : Offset) (s : State) : Host.Outcome State Fault Refusal := .next (romRead s.reg.bank .l off s)

/-- `OC.IO1.W` (R179). -/
def execOcIo1W (_al d : Byte) (s : State) : Host.Outcome State Fault Refusal :=
  .next (selectBank (byteField d 0 6) (setCtrl d s))

/-- `CO.ROML.R` (R180). -/
def execCoRomlR (off : Offset) (s : State) : Host.Outcome State Fault Refusal := .next (romRead s.reg.bank .l off s)

/-- `CO.ROMH.R` (R181). -/
def execCoRomhR (off : Offset) (s : State) : Host.Outcome State Fault Refusal := .next (romRead s.reg.bank .h off s)

/-- `CO.IO1.W` (R182): the bank is set in every mode. -/
def execCoIo1W (_al d : Byte) (s : State) : Host.Outcome State Fault Refusal :=
  .next <|
    match comalMode d with
    | none => disable (selectBank (byteField d 0 2) (setCtrl d s))
    | some m => enableWith m (selectBank (byteField d 0 2) (setCtrl d s))

/-- `HU.ROML.R` (R183). -/
def execHuRomlR (off : Offset) (s : State) : Host.Outcome State Fault Refusal := .next (romRead s.reg.bank .l off s)

/-- `HU.IO1.W` (R184): ignored while disabled; bit 3 disables after the bank is set. -/
def execHuIo1W (_al d : Byte) (s : State) : Host.Outcome State Fault Refusal :=
  .next <|
    if s.reg.carten then
      if d.getLsbD 3 then disable (selectBank (byteField d 0 3) (setCtrl d s))
      else selectBank (byteField d 0 3) (setCtrl d s)
    else s

/-- `PR.ROML.R` (R185). -/
def execPrRomlR (off : Offset) (s : State) : Host.Outcome State Fault Refusal := .next (romRead s.reg.bank .l off s)

/-- `PR.IO2.W` (R186). -/
def execPrIo2W (_al d : Byte) (s : State) : Host.Outcome State Fault Refusal :=
  .next <|
    if d.getLsbD 5 then disable (selectBank (byteField d 0 5) (setCtrl d s))
    else enableWith (mapDefault s.cfg) (selectBank (byteField d 0 5) (setCtrl d s))

/-- `SB.ROML.R` (R187). -/
def execSbRomlR (off : Offset) (s : State) : Host.Outcome State Fault Refusal := .next (romRead 0 .l off s)

/-- `SB.ROMH.R` (R188). -/
def execSbRomhR (off : Offset) (s : State) : Host.Outcome State Fault Refusal := .next (romRead 0 .h off s)

/-- `SB.IO1.W` (R189): the access itself shows the ROM-high half. -/
def execSbIo1W (_al _d : Byte) (s : State) : Host.Outcome State Fault Refusal := .next (setMap modeM16k s)

/-- `SB.IO1.R` (R190): the read hides the ROM-high half and drives nothing. -/
def execSbIo1R (_al : Byte) (s : State) : Host.Outcome State Fault Refusal := .next (setMap modeM8k s)

/-- `DI.ROML.R` (R191). -/
def execDiRomlR (off : Offset) (s : State) : Host.Outcome State Fault Refusal := .next (romRead s.reg.bank .l off s)

/-- `DI.IO1.R` (R192): the bank comes from the address of a read, which drives nothing. -/
def execDiIo1R (al : Byte) (s : State) : Host.Outcome State Fault Refusal := .next (selectBank (byteField al 0 4) s)

/-- `EP.ROML.R` (R193): a qualifying read re-arms the countdown while the cartridge is enabled. -/
def execEpRomlR (off : Offset) (s : State) : Host.Outcome State Fault Refusal :=
  .next (if s.reg.carten then rearmCap (romRead 0 .l off s) else romRead 0 .l off s)

/-- `EP.IO1.R` (R194): enables again and re-arms; drives nothing. -/
def execEpIo1R (_al : Byte) (s : State) : Host.Outcome State Fault Refusal :=
  .next (rearmCap (enableWith (mapDefault s.cfg) s))

/-- `EP.IO2.R` (R195): the last 256 ROM bytes, whether or not the cartridge is enabled. -/
def execEpIo2R (al : Byte) (s : State) : Host.Outcome State Fault Refusal :=
  .next (if s.cfg.hasL then driveByte (romByte 0 .l (pageOffset 0x1F00 al) s) s else s)

/-- `ZX.ROML.R` (R196): bank 0 answers, and address bit 12 of the access selects the bank of ROM-high reads. -/
def execZxRomlR (off : Offset) (s : State) : Host.Outcome State Fault Refusal :=
  .next (selectBank (off.getLsbD 12).toNat (romRead 0 .l off s))

/-- `ZX.ROMH.R` (R197). -/
def execZxRomhR (off : Offset) (s : State) : Host.Outcome State Fault Refusal := .next (romRead s.reg.bank .h off s)

end Sys2Proof.Machine
end

