-- ==== Sys2Proof/Machine/EasyFlash.lean ====
section
/-!
DEFINITION. EASYFLASH (42_easyflash R220 to R231): bank and control registers, the RAM window, and the flash command
stream with program and sector erase. The literals are the spec's decisions D32, D33 (log 19).
-/

namespace Sys2Proof.Machine

/-- `fl[w]` (10_state R29). -/
def flashOf (s : State) : RomWindow → FlashState
  | .l => s.flash.l
  | .h => s.flash.h

/-- `fl[w] <- f`. -/
def setFlash (w : RomWindow) (f : FlashState) (s : State) : State :=
  match w with
  | .l => { s with flash := { s.flash with l := f } }
  | .h => { s with flash := { s.flash with h := f } }

/-- `FlashProgram(bank, w, off, v)`: the masking AND write and its event (45_memory_mux_dma R331, 42_easyflash R229). -/
def flashProgram (bank : Byte) (w : RomWindow) (off : Offset) (v : Byte) (s : State) : State :=
  emit (.persistFlash bank w (off &&& offMask s.cfg w) (romByte bank w off s &&& v))
    (memWrite .rom (romIndex bank w (off &&& offMask s.cfg w)) (romByte bank w off s &&& v) s)

/-- The first bank of the sector that holds bank `b` (42_easyflash R230). -/
def sectorFirst (cfg : Cfg) (b : Byte) : Nat := b.toNat / cfg.flashSectorBanks * cfg.flashSectorBanks

/-- The number of banks of that sector: `min(first + FLASH_SECTOR_BANKS, BANK_COUNT) - first` (42_easyflash R230). -/
def sectorCount (cfg : Cfg) (b : Byte) : Nat :=
  min (sectorFirst cfg b + cfg.flashSectorBanks) cfg.bankCount - sectorFirst cfg b

/-- One window of one bank filled with 0xFF. -/
def eraseBank (w : RomWindow) (m : Memory) (bank : Nat) : Memory :=
  Memory.fillRange (fillOf .rom) (romIndex (BitVec.ofNat 8 bank) w 0) 8192 0xFF m

/-- `SectorErase(w, b)` (42_easyflash R230). -/
def sectorErase (w : RomWindow) (b : Byte) (s : State) : State :=
  emit (.persistFlashSector w (sectorFirst s.cfg b))
    { s with rom := (List.range' (sectorFirst s.cfg b) (sectorCount s.cfg b)).foldl (eraseBank w) s.rom }

/-- The command addresses compare on `off & 0x7FF` (42_easyflash R228). -/
def flashAt (off a : Offset) : Bool := off &&& 0x7FF = a

/-- `FlashWrite(w, off, v)`, the command state machine (42_easyflash R228). -/
def flashWrite (w : RomWindow) (off : Offset) (v : Byte) (s : State) : State :=
  match flashOf s w with
  | .read => if flashAt off 0x555 && v = 0xAA then setFlash w .u1 s else s
  | .u1 => setFlash w (if flashAt off 0x2AA && v = 0x55 then .u2 else .read) s
  | .u2 =>
    setFlash w
      (if flashAt off 0x555 && v = 0xA0 then .program
       else if flashAt off 0x555 && v = 0x80 then .eraseArm
       else .read) s
  | .program => setFlash w .read (flashProgram s.reg.bank w off v s)
  | .eraseArm => setFlash w (if flashAt off 0x555 && v = 0xAA then .e1 else .read) s
  | .e1 => setFlash w (if flashAt off 0x2AA && v = 0x55 then .e2 else .read) s
  | .e2 => setFlash w .read (if v = 0x30 then sectorErase w s.reg.bank s else s)

/-- A ROM-window write of EASYFLASH: `if HAS_w then FlashWrite(w, OFF, D)` (R226, R227), accepted only while CARTEN = 1, the
gate 10_state R16 and 20_memory R73 put before every ROM-window write and these two rules do not repeat (DEDUCED, log
22). -/
def flashWindowWrite (w : RomWindow) (off : Offset) (d : Byte) (s : State) : State :=
  if s.reg.carten && hasWindow s.cfg w then flashWrite w off d s else s

/-- `EF.ROML.R` (R220); the store byte in every flash state (R231). -/
def execEfRomlR (off : Offset) (s : State) : Host.Outcome State Fault Refusal := .next (romRead s.reg.bank .l off s)

/-- `EF.ROMH.R` (R221). -/
def execEfRomhR (off : Offset) (s : State) : Host.Outcome State Fault Refusal := .next (romRead s.reg.bank .h off s)

/-- `EF.IO1.W.BANK` (R222); CTRL is not written. -/
def execEfIo1WBank (_al d : Byte) (s : State) : Host.Outcome State Fault Refusal :=
  .next (selectBank (byteField d 0 6) s)

/-- `EF.IO1.W.CTRL` (R223): the mode table keyed by the jumper and the low control bits. -/
def execEfIo1WCtrl (_al d : Byte) (s : State) : Host.Outcome State Fault Refusal :=
  .next (setMap (efMode (efIndex s.cfg.efJumper d)) (setCtrl d s))

/-- `EF.IO2.R` (R224): the RAM window, not gated by CARTEN. -/
def execEfIo2R (al : Byte) (s : State) : Host.Outcome State Fault Refusal :=
  .next (driveByte (memRead .ram al.toNat s) s)

/-- `EF.IO2.W` (R225). -/
def execEfIo2W (al d : Byte) (s : State) : Host.Outcome State Fault Refusal := .next (memWrite .ram al.toNat d s)

/-- `EF.ROML.W` (R226). -/
def execEfRomlW (off : Offset) (d : Byte) (s : State) : Host.Outcome State Fault Refusal :=
  .next (flashWindowWrite .l off d s)

/-- `EF.ROMH.W` (R227). -/
def execEfRomhW (off : Offset) (d : Byte) (s : State) : Host.Outcome State Fault Refusal :=
  .next (flashWindowWrite .h off d s)

end Sys2Proof.Machine
end

