-- ==== Sys2Proof/Machine/Gmod2.lean ====
section
/-!
DEFINITION. GMOD2 (43_gmod2 R250 to R257): the one register and the 3-wire EEPROM. The register bits follow conflict C6
and decision D34, the command set decision D35 (log 19).
-/

namespace Sys2Proof.Machine

/-- The EEPROM interface replaced. -/
def setEepi (e : EepromIface) (s : State) : State := { s with eepi := e }

/-- `Word(a) = eep[2a] | (eep[2a + 1] << 8)` (R254). -/
def eepWord (a : BitVec 10) (s : State) : BitVec 16 :=
  memRead .eep (2 * a.toNat + 1) s ++ memRead .eep (2 * a.toNat) s

/-- One byte of `EepStoreWord`: a changed byte is stored and reported, an unchanged one is not (R256). -/
def eepStoreByte (i : Nat) (b : Byte) (s : State) : State :=
  if memRead .eep i s = b then s else emit (.persistEep i b) (memWrite .eep i b s)

/-- `EepStoreWord(a, v)`, low byte first (R256). -/
def eepStoreWord (a : Nat) (v : BitVec 16) (s : State) : State :=
  eepStoreByte (2 * a + 1) (v.extractLsb' 8 8) (eepStoreByte (2 * a) (v.extractLsb' 0 8) s)

/-- `for k in 0 .. EEP_WORDS - 1: EepStoreWord(k, v)` (R255, R256). -/
def eepStoreAll (v : BitVec 16) (s : State) : State :=
  (List.range (eepWords s.cfg)).foldl (fun t k => eepStoreWord k v t) s

/-- `a mod EEP_WORDS` (R255, 30_encoding R117 (h)). -/
def eepAddr (cfg : Cfg) (a : Nat) : BitVec 10 := BitVec.ofNat 10 (a % eepWords cfg)

/-- `ee_sr` with one more bit, most significant first (R254). -/
def eepShiftIn (sr : BitVec 16) (di : Bool) : BitVec 16 := (sr <<< 1) ||| (BitVec.ofBool di).setWidth 16

/-- `ee_do <- 1 ; ee_phase <- EE_DONE`, the ready chip after a command (R255, R256). -/
def eepReady (s : State) : State := setEepi { s.eepi with dOut := true, phase := .done } s

/-- `EepCommand(op, a)`, on the twelfth bit after the start bit (R255). -/
def eepCommand (op : BitVec 2) (a : BitVec 10) (s : State) : State :=
  match op.toNat with
  | 2 =>
    setEepi
      { s.eepi with
        addr := eepAddr s.cfg a.toNat, out := eepWord (eepAddr s.cfg a.toNat) s, n := 0, dOut := false,
        phase := .readOut } s
  | 1 => setEepi { s.eepi with addr := eepAddr s.cfg a.toNat, sr := 0, n := 0, phase := .dataIn } s
  | 3 => eepReady (if s.eepi.wen then eepStoreWord (a.toNat % eepWords s.cfg) 0xFFFF s else s)
  | _ =>
    match (a.extractLsb' 8 2).toNat with
    | 3 => setEepi { s.eepi with wen := true, phase := .done } s
    | 0 => setEepi { s.eepi with wen := false, phase := .done } s
    | 2 => eepReady (if s.eepi.wen then eepStoreAll 0xFFFF s else s)
    | _ => setEepi { s.eepi with sr := 0, n := 0, phase := .dataInAll } s

/-- `EepCommit()`, on the sixteenth data bit (R256). -/
def eepCommit (s : State) : State :=
  eepReady <|
    if s.eepi.wen then
      if s.eepi.phase = .dataIn then eepStoreWord s.eepi.addr.toNat s.eepi.sr s else eepStoreAll s.eepi.sr s
    else s

/-- `ee_sr` and `ee_n` after one input bit. -/
def eepTakeBit (di : Bool) (s : State) : State :=
  setEepi { s.eepi with sr := eepShiftIn s.eepi.sr di, n := s.eepi.n + 1 } s

/-- One data bit out; after the sixteenth the address steps to the next word (R254). -/
def eepShiftOut (s : State) : State :=
  if s.eepi.n + 1 = 16 then
    setEepi
      { s.eepi with
        dOut := s.eepi.out.getLsbD 15, addr := eepAddr s.cfg (s.eepi.addr.toNat + 1),
        out := eepWord (eepAddr s.cfg (s.eepi.addr.toNat + 1)) s, n := 0 } s
  else
    setEepi { s.eepi with dOut := s.eepi.out.getLsbD 15, out := s.eepi.out <<< 1, n := s.eepi.n + 1 } s

/-- `EepClock(di)`, one rising clock edge while selected (R254). -/
def eepClock (di : Bool) (s : State) : State :=
  match s.eepi.phase with
  | .waitStart => if di then setEepi { s.eepi with phase := .cmd, sr := 0, n := 0 } s else s
  | .cmd =>
    if s.eepi.n + 1 = 12 then
      eepCommand ((eepShiftIn s.eepi.sr di).extractLsb' 10 2) ((eepShiftIn s.eepi.sr di).extractLsb' 0 10)
        (eepTakeBit di s)
    else eepTakeBit di s
  | .dataIn | .dataInAll => if s.eepi.n + 1 = 16 then eepCommit (eepTakeBit di s) else eepTakeBit di s
  | .readOut => eepShiftOut s
  | .done => s

/-- `EepSelect()` (R253); the data-out of a selected chip is 1, ready. -/
def eepSelect (s : State) : State := setEepi { s.eepi with phase := .waitStart, n := 0, sr := 0, dOut := true } s

/-- `EepDeselect()` (R257); a frame cut short has no effect. -/
def eepDeselect (s : State) : State :=
  setEepi { s.eepi with phase := .waitStart, n := 0, sr := 0, out := 0, dOut := false } s

/-- A change of chip-select, the first part of `EepLines` (R253). -/
def eepChipSelect (cs : Bool) (s : State) : State :=
  if cs && !s.eepi.cs then eepSelect s
  else if !cs && s.eepi.cs then eepDeselect s
  else s

/-- `ee_cs <- cs ; ee_di <- di` (R253). -/
def eepLatchData (cs di : Bool) (s : State) : State := setEepi { s.eepi with cs := cs, di := di } s

/-- A rising clock edge clocks a selected chip; no other clock level does anything (R253). -/
def eepEdge (cs clk di : Bool) (s : State) : State := if cs && !s.eepi.clk && clk then eepClock di s else s

/-- `ee_clk <- clk` (R253). -/
def eepLatchClock (clk : Bool) (s : State) : State := setEepi { s.eepi with clk := clk } s

/-- `EepLines(cs, clk, di)`: chip-select first, then the clock edge (R253). -/
def eepLines (cs clk di : Bool) (s : State) : State :=
  eepLatchClock clk (eepEdge cs clk di (eepLatchData cs di (eepChipSelect cs s)))

/-- `GM.ROML.R` (R250). -/
def execGmRomlR (off : Offset) (s : State) : Host.Outcome State Fault Refusal := .next (romRead s.reg.bank .l off s)

/-- `GM.IO1.W` (R251): bank, chip-select with the ROM off the bus, and the EEPROM lines, in one byte. -/
def execGmIo1W (_al d : Byte) (s : State) : Host.Outcome State Fault Refusal :=
  .next <|
    eepLines (d.getLsbD 6) (d.getLsbD 5) (d.getLsbD 4) <|
      if d.getLsbD 6 then disable (selectBank (byteField d 0 6) (setCtrl d s))
      else enableWith (mapDefault s.cfg) (selectBank (byteField d 0 6) (setCtrl d s))

/-- `GM.IO1.R` (R252): bit 7 is the data-out of the selected EEPROM. -/
def execGmIo1R (_al : Byte) (s : State) : Host.Outcome State Fault Refusal :=
  .next (driveByte ((BitVec.ofBool (s.eepi.cs && s.eepi.dOut)).setWidth 8 <<< 7) s)

end Sys2Proof.Machine
end

