-- ==== Sys2Proof/Machine/Freezer.lean ====
section
/-!
DEFINITION. The freezer class: FREEZEFRAME, ACTIONREPLAY, SUPERSNAPSHOT5 (44_freezer R286 to R301). Freeze control itself
is in Machine/Ops.lean. The register layouts are the spec's decisions D37 to D39 (log 19).
-/

namespace Sys2Proof.Machine

/-- `FF.ROML.R` (R286). -/
def execFfRomlR (off : Offset) (s : State) : Host.Outcome State Fault Refusal := .next (romRead s.reg.bank .l off s)

/-- `FF.ROMH.R` (R287). -/
def execFfRomhR (off : Offset) (s : State) : Host.Outcome State Fault Refusal :=
  .next (romReadHiOrMirror s.reg.bank off s)

/-- `FF.IO1.R` (R288): the read enables with 8 KiB mapping and drives nothing. -/
def execFfIo1R (_al : Byte) (s : State) : Host.Outcome State Fault Refusal := .next (enableWith modeM8k s)

/-- `FF.IO2.R` (R289): the read disables and drives nothing. -/
def execFfIo2R (_al : Byte) (s : State) : Host.Outcome State Fault Refusal := .next (disable s)

/-- The RAM byte at `i` while RAMEXP, else the ROM-low byte of BANK at `off`, while enabled (R290, R295, R297). -/
def ramOrRomRead (i : Nat) (off : Offset) (s : State) : State :=
  if s.reg.carten then
    if s.reg.ramexp then driveByte (memRead .ram i s) s
    else if s.cfg.hasL then driveByte (romByte s.reg.bank .l off s) s
    else s
  else s

/-- A write to the exported RAM, ignored while the cartridge is disabled or shows ROM (R291, R296, R298). -/
def ramWrite (i : Nat) (d : Byte) (s : State) : State :=
  if s.reg.carten && s.reg.ramexp then memWrite .ram i d s else s

/-- The byte a ROM-high access of ACTIONREPLAY drives, if it drives one (R292). -/
def arRomhByte (off : Offset) (s : State) : Option Byte :=
  if s.reg.carten && atomicRam s then some (memRead .ram off.toNat s) else hiOrMirrorByte s.reg.bank off s

/-- `AR.ROML.R` (R290). -/
def execArRomlR (off : Offset) (s : State) : Host.Outcome State Fault Refusal := .next (ramOrRomRead off.toNat off s)

/-- `AR.ROML.W` (R291). -/
def execArRomlW (off : Offset) (d : Byte) (s : State) : Host.Outcome State Fault Refusal :=
  .next (ramWrite off.toNat d s)

/-- `AR.ROMH.R` (R292). -/
def execArRomhR (off : Offset) (s : State) : Host.Outcome State Fault Refusal := .next (driveOption (arRomhByte off s) s)

/-- `AR.ROMH.W` (R293): only the AtomicPower RAM at ROM-high takes the byte. -/
def execArRomhW (off : Offset) (d : Byte) (s : State) : Host.Outcome State Fault Refusal :=
  .next (if s.reg.carten && atomicRam s then memWrite .ram off.toNat d s else s)

/-- `AR.IO1.W` (R294): ignored while disabled. -/
def execArIo1W (_al d : Byte) (s : State) : Host.Outcome State Fault Refusal :=
  .next <|
    if s.reg.carten then
      if d.getLsbD 2 then disable (setRamexp (d.getLsbD 5) (selectBank (byteField d 3 2) (setCtrl d s)))
      else setMap (arMode s.cfg d) (setRamexp (d.getLsbD 5) (selectBank (byteField d 3 2) (setCtrl d s)))
    else s

/-- `AR.IO2.R` (R295): the last page of the RAM or of the ROM bank. -/
def execArIo2R (al : Byte) (s : State) : Host.Outcome State Fault Refusal :=
  .next (ramOrRomRead (pageOffset 0x1F00 al).toNat (pageOffset 0x1F00 al) s)

/-- `AR.IO2.W` (R296). -/
def execArIo2W (al d : Byte) (s : State) : Host.Outcome State Fault Refusal :=
  .next (ramWrite (pageOffset 0x1F00 al).toNat d s)

/-- `SS.ROML.R` (R297). -/
def execSsRomlR (off : Offset) (s : State) : Host.Outcome State Fault Refusal := .next (ramOrRomRead (ramIdx s off) off s)

/-- `SS.ROML.W` (R298). -/
def execSsRomlW (off : Offset) (d : Byte) (s : State) : Host.Outcome State Fault Refusal :=
  .next (ramWrite (ramIdx s off) d s)

/-- `SS.ROMH.R` (R299): always ROM, never RAM. -/
def execSsRomhR (off : Offset) (s : State) : Host.Outcome State Fault Refusal :=
  .next (romReadHiOrMirror s.reg.bank off s)

/-- `SS.IO1.W` (R300): ignored while disabled. -/
def execSsIo1W (_al d : Byte) (s : State) : Host.Outcome State Fault Refusal :=
  .next <|
    if s.reg.carten then
      if d.getLsbD 3 then disable (setRamexp (!d.getLsbD 1) (selectBank (ssBankField d) (setCtrl d s)))
      else setMap (ssMode d) (setRamexp (!d.getLsbD 1) (selectBank (ssBankField d) (setCtrl d s)))
    else s

/-- `SS.IO1.R` (R301): the ROM page at offset 0x1E00 of the active bank. -/
def execSsIo1R (al : Byte) (s : State) : Host.Outcome State Fault Refusal :=
  .next <|
    if s.reg.carten && s.cfg.hasL then driveByte (romByte s.reg.bank .l (pageOffset 0x1E00 al) s) s else s

end Sys2Proof.Machine
end

