-- ==== Sys2Proof/Machine/Video.lean ====
section
/-!
DEFINITION. The video half (46_video_window R360 to R362) and the default operation `IGN` (40_cycle R147).
-/

namespace Sys2Proof.Machine

/-- The byte a plain ROM read drives, if it drives one (45_memory_mux_dma R333). -/
def romReadByte (b : Byte) (w : RomWindow) (off : Offset) (s : State) : Option Byte :=
  if s.reg.carten && hasWindow s.cfg w then some (romByte b w off s) else none

/-- `VideoRomh(OFF)`: the byte the variant's ROM-high read would drive in the present state (R360). -/
def videoRomh (off : Offset) (s : State) : Option Byte :=
  match s.cfg.variant with
  | .fixed | .simons => romReadByte 0 .h off s
  | .ocean => romReadByte s.reg.bank .l off s
  | .comal80 | .easyflash | .zaxxon => romReadByte s.reg.bank .h off s
  | .freezeframe | .supersnapshot5 => hiOrMirrorByte s.reg.bank off s
  | .actionreplay => arRomhByte off s
  | .magicdesk | .c64gs | .hucky | .prophet | .dinamic | .epyx | .gmod2 => none

/-- `VID.ROMH.R` (R360): no register side effects. -/
def execVidRomhR (off : Offset) (s : State) : Host.Outcome State Fault Refusal := .next (driveOption (videoRomh off s) s)

/-- `VID.IGN.W` (R361): a write in the video half is ignored whole. -/
def execVidIgnW (s : State) : Host.Outcome State Fault Refusal := .next s

/-- `VID.IGN.NR` (R362): a video-half read outside ROM-high drives nothing and triggers no register. -/
def execVidIgnNr (s : State) : Host.Outcome State Fault Refusal := .next s

/-- `IGN` (40_cycle R147): reads nothing, writes nothing, drives nothing. -/
def execIgn (s : State) : Host.Outcome State Fault Refusal := .next s

end Sys2Proof.Machine
end

