-- ==== Sys2Proof/Machine/Dispatch.lean ====
section
/-!
DEFINITION. Dispatch: one arm per bus operation (40_cycle R146), each one direct call of its meaning.
-/

namespace Sys2Proof.Machine

def exec (i : Instr) (s : State) : Host.Outcome State Fault Refusal :=
  match i with
  | .fxRomlR off => Sys2Proof.Machine.execFxRomlR off s
  | .fxRomhR off => Sys2Proof.Machine.execFxRomhR off s
  | .mdRomlR off => Sys2Proof.Machine.execMdRomlR off s
  | .mdIo1W al d => Sys2Proof.Machine.execMdIo1W al d s
  | .gsRomlR off => Sys2Proof.Machine.execGsRomlR off s
  | .gsIo1W al d => Sys2Proof.Machine.execGsIo1W al d s
  | .gsIo1R al => Sys2Proof.Machine.execGsIo1R al s
  | .ocRomlR off => Sys2Proof.Machine.execOcRomlR off s
  | .ocRomhR off => Sys2Proof.Machine.execOcRomhR off s
  | .ocIo1W al d => Sys2Proof.Machine.execOcIo1W al d s
  | .coRomlR off => Sys2Proof.Machine.execCoRomlR off s
  | .coRomhR off => Sys2Proof.Machine.execCoRomhR off s
  | .coIo1W al d => Sys2Proof.Machine.execCoIo1W al d s
  | .huRomlR off => Sys2Proof.Machine.execHuRomlR off s
  | .huIo1W al d => Sys2Proof.Machine.execHuIo1W al d s
  | .prRomlR off => Sys2Proof.Machine.execPrRomlR off s
  | .prIo2W al d => Sys2Proof.Machine.execPrIo2W al d s
  | .sbRomlR off => Sys2Proof.Machine.execSbRomlR off s
  | .sbRomhR off => Sys2Proof.Machine.execSbRomhR off s
  | .sbIo1W al d => Sys2Proof.Machine.execSbIo1W al d s
  | .sbIo1R al => Sys2Proof.Machine.execSbIo1R al s
  | .diRomlR off => Sys2Proof.Machine.execDiRomlR off s
  | .diIo1R al => Sys2Proof.Machine.execDiIo1R al s
  | .epRomlR off => Sys2Proof.Machine.execEpRomlR off s
  | .epIo1R al => Sys2Proof.Machine.execEpIo1R al s
  | .epIo2R al => Sys2Proof.Machine.execEpIo2R al s
  | .zxRomlR off => Sys2Proof.Machine.execZxRomlR off s
  | .zxRomhR off => Sys2Proof.Machine.execZxRomhR off s
  | .efRomlR off => Sys2Proof.Machine.execEfRomlR off s
  | .efRomhR off => Sys2Proof.Machine.execEfRomhR off s
  | .efIo1WBank al d => Sys2Proof.Machine.execEfIo1WBank al d s
  | .efIo1WCtrl al d => Sys2Proof.Machine.execEfIo1WCtrl al d s
  | .efIo2R al => Sys2Proof.Machine.execEfIo2R al s
  | .efIo2W al d => Sys2Proof.Machine.execEfIo2W al d s
  | .efRomlW off d => Sys2Proof.Machine.execEfRomlW off d s
  | .efRomhW off d => Sys2Proof.Machine.execEfRomhW off d s
  | .gmRomlR off => Sys2Proof.Machine.execGmRomlR off s
  | .gmIo1W al d => Sys2Proof.Machine.execGmIo1W al d s
  | .gmIo1R al => Sys2Proof.Machine.execGmIo1R al s
  | .ffRomlR off => Sys2Proof.Machine.execFfRomlR off s
  | .ffRomhR off => Sys2Proof.Machine.execFfRomhR off s
  | .ffIo1R al => Sys2Proof.Machine.execFfIo1R al s
  | .ffIo2R al => Sys2Proof.Machine.execFfIo2R al s
  | .arRomlR off => Sys2Proof.Machine.execArRomlR off s
  | .arRomlW off d => Sys2Proof.Machine.execArRomlW off d s
  | .arRomhR off => Sys2Proof.Machine.execArRomhR off s
  | .arRomhW off d => Sys2Proof.Machine.execArRomhW off d s
  | .arIo1W al d => Sys2Proof.Machine.execArIo1W al d s
  | .arIo2R al => Sys2Proof.Machine.execArIo2R al s
  | .arIo2W al d => Sys2Proof.Machine.execArIo2W al d s
  | .ssRomlR off => Sys2Proof.Machine.execSsRomlR off s
  | .ssRomlW off d => Sys2Proof.Machine.execSsRomlW off d s
  | .ssRomhR off => Sys2Proof.Machine.execSsRomhR off s
  | .ssIo1W al d => Sys2Proof.Machine.execSsIo1W al d s
  | .ssIo1R al => Sys2Proof.Machine.execSsIo1R al s
  | .vidRomhR off => Sys2Proof.Machine.execVidRomhR off s
  | .vidIgnW => Sys2Proof.Machine.execVidIgnW s
  | .vidIgnNr => Sys2Proof.Machine.execVidIgnNr s
  | .ign => Sys2Proof.Machine.execIgn s

end Sys2Proof.Machine
end

