-- ==== Sys2Proof/Machine/Session.lean ====
section
/-!
DEFINITION. Activation and deactivation, the session operations performed from outside (70_reset_and_hazards R410 to R415,
60_exceptions R371, R387).
-/

namespace Sys2Proof.Machine

/-- The number of ROM indices of an image (20_memory R60). -/
def romSize (cfg : Cfg) : Nat := cfg.bankCount * 2 * 8192

/-- The codes of R371. -/
def loadErrorCode : LoadError → Nat
  | .badSignature => 1
  | .unsupportedType => 2
  | .truncated => 3
  | .ioFailure => 4
  | .emptyImage => 5
  | .tooManyBanks => 6

/-- The checks of `Activate` on a parsed result, in its order (R410). -/
def activationError (cfg : Cfg) : Option LoadError :=
  if cfg.bankCount = 0 ∨ (cfg.hasL = false ∧ cfg.hasH = false) then some .emptyImage
  else if 256 < cfg.bankCount then some .tooManyBanks
  else none

/-- `Preload()`: the resident banks of a fresh session (R413). -/
def preloaded (cfg : Cfg) : List Byte := if cfg.fitsInCache then allBanks cfg else [0]

/-- The values at activation (10_state R45, 70_reset_and_hazards R411) with the loader's contents, and the prefetch events
activation returns (R413). The session number moves on, so that the unspecified bytes of the new session are drawn afresh
(log 4 to 6). -/
def startSession (cfg : Cfg) (rom eep : List Host.Cell) (s : State) : State where
  active := true
  sessionNo := s.sessionNo + 1
  cfg := cfg
  inputs := s.inputs
  loadError := none
  reg := { bank := 0, ctrl := 0, ramexp := initialRamexp cfg.variant, carten := true }
  map := mapDefault cfg
  nmiOut := false
  stallOut := false
  drive := none
  events := (preloaded cfg).map .prefetch
  dma := { pending := none, release := none, bank := 0 }
  rst := { cnt := 0, pressed := false, released := false }
  frz := { fs := .idle, btnCnt := 0, nmiCnt := 0, wrCnt := 0 }
  capCnt := initialCapCnt cfg
  flash := ⟨.read, .read⟩
  eepi := EepromIface.initial
  rom := Memory.load (fillOf .rom) (romSize cfg) rom
  ram := []
  eep := Memory.load (fillOf .eep) (2 * eepWords cfg) eep
  shadow := []
  resident := preloaded cfg

/-- The "no cartridge" state (60_exceptions R371): the handler does not run, MAP = OFF, NMI_OUT = STALL_OUT = 0, nothing
driven. No other state exists there; the fields hold placeholders until the next activation (log 9). -/
def endSession (err : Option LoadError) (s : State) : State :=
  { State.reset with
    active := false
    sessionNo := s.sessionNo
    inputs := s.inputs
    loadError := err
    map := modeOff
    events := [] }

/-- `Activate(result)` (R410). A failure leaves no session and reports its kind (R371). -/
def activate (r : LoadResult) (s : State) : State :=
  match r with
  | .failure k => endSession (some k) s
  | .ok cfg rom eep =>
    match activationError cfg with
    | some k => endSession (some k) s
    | none => startSession cfg rom eep s

/-- Deactivation: all state is discarded, nothing is flushed (R415). -/
def deactivate (s : State) : State := endSession none s

end Sys2Proof.Machine
end

