-- ==== Sys2Proof/Machine/Invocation.lean ====
section
/-!
DEFINITION. One handler invocation, the unit step (40_cycle R140), and what each input from outside does.
-/

namespace Sys2Proof.Machine

/-- Stages 1 to 4: the sample of this invocation (R141 to R144). -/
def sampleIn (s : State) (env : Env) : BusCycleSample := assemble s.cfg env

/-- The operation the sample decodes to in this session (R146). -/
def operationOf (s : State) (env : Env) : Instr := decode (dispatchWord s.cfg.variant (sampleIn s env))

/-- The state the operation runs on: outputs cleared (R140), the shadow byte recorded (R146). -/
def beforeOperation (s : State) (env : Env) : State := recordShadow (sampleIn s env) (beginInvocation s)

/-- What follows the operation: freeze observation (stage 5) and the ticks (stage 7); the driver (stage 6) is the identity
(R150). -/
def finishInvocation (s : State) (env : Env) (t : State) : State := ticks env (afterOperation (sampleIn s env) t)

/-- `Invocation(env)` (R140). -/
def invocation (env : Env) (s : State) : Host.Outcome State Fault Refusal :=
  match exec (operationOf s env) (beforeOperation s env) with
  | .next t => .next (finishInvocation s env t)
  | .fault r => .fault r
  | .refused r => .refused r

/-- One input. The interrupt starts an invocation in a session (60_exceptions R372) and nothing without one (R371). -/
def receive (i : Input) (s : State) : Host.Outcome State Fault Refusal :=
  match i with
  | .clkIrq env => if s.active then invocation env s else .next s
  | .activate r => .next (activate r s)
  | .deactivate => .next (deactivate s)

/-- The next input, if one is pending; without one the block is idle (10_state R46, log 1). -/
def nextInput (s : State) : Host.Outcome State Fault Refusal :=
  match s.inputs with
  | [] => .next s
  | i :: rest => receive i { s with inputs := rest }

/-- A session of variant `v` in place of the present one. A session of that variant stays as it is; in another one the
parameters and the protocol state are those of `v` (00_scope R7, 60_exceptions R376), the stores stay (log 2). -/
def inVariant (v : Variant) (s : State) : State :=
  if s.cfg.variant = v then s else reinitProtocol { s with cfg := s.cfg.forVariant v }

/-- The state with one sample presented as the next input, in a session of the given variant, its reset line and button
not asserted (log 2). -/
def presentSample (v : Variant) (S : BusCycleSample) (s : State) : State :=
  { inVariant v s with
    active := true
    inputs := .clkIrq (envOf S false false) :: s.inputs }

end Sys2Proof.Machine
end

