-- ==== Sys2Proof/Machine/Step.lean ====
section
/-!
DEFINITION. The step of the machine: the next input of the environment (40_cycle R155), and how a dispatch word is put
where the step finds its next operation.
-/

namespace Sys2Proof.Machine

/-- One step: take the next input. -/
def step (s : State) : Host.Outcome State Fault Refusal := nextInput s

/-- The state whose next step runs the operation of the dispatch word `w`: its sample is the next input, its tag the
session's variant (30_encoding R101, log 2). -/
def State.withFetchWord (s : State) (_nbits w : Nat) : State :=
  presentSample (wordVariant (BitVec.ofNat 32 w)) (wordSample (BitVec.ofNat 32 w)) s

end Sys2Proof.Machine
end

