-- ==== Sys2Proof/Machine/Physical.lean ====
section
/-!
DEFINITION. The physical side of the ROM store (20_memory R72, R74; 45_memory_mux_dma R334): the byte permutation, the two
layouts, and the physical store a loader builds and the block reads. It is a representation of the logical array, no state
(10_state R31); the logical model is written on `romIndex` (log 13).
-/

namespace Sys2Proof.Machine

/-- The recorded default of `linear_to_cache_order`: `((o & 0xFF) << 5) | ((o >> 8) & 0x1F)` (R72; general knowledge,
item G5 of 93_implementation_defined). -/
def linearToCacheOrder (o : Offset) : Offset := ((o &&& 0xFF) <<< 5) ||| ((o >>> 8) &&& 0x1F)

/-- Its inverse. -/
def cacheToLinearOrder (p : Offset) : Offset := ((p &&& 0x1F) <<< 8) ||| ((p >>> 5) &&& 0xFF)

/-- `phys(bank, w, p)`: the position of the permuted offset `p` in the interleaved and in the plain layout (R74). -/
def physIndex (interleaved : Bool) (bank : Byte) (w : RomWindow) (p : Offset) : Nat :=
  match interleaved, w with
  | true, .l => (bank.toNat * 8192 + p.toNat) * 2
  | true, .h => (bank.toNat * 8192 + p.toNat) * 2 + 1
  | false, .l => bank.toNat * 2 * 8192 + p.toNat
  | false, .h => (bank.toNat * 2 + 1) * 8192 + p.toNat

/-- One logical ROM byte with its place. -/
structure ImageByte where
  bank : Byte
  w : RomWindow
  off : Offset
  val : Byte
deriving DecidableEq, Repr

/-- The loader's side: each byte written at `phys(b, w, perm(o))`, a later byte over an earlier one (R334). -/
def loadPhysical (perm : Offset → Offset) (interleaved : Bool) (image : List ImageByte) : Memory :=
  image.foldl (fun m x => Memory.write none (physIndex interleaved x.bank x.w (perm x.off)) x.val m) []

/-- The same image in the logical numbering. -/
def loadLogical (image : List ImageByte) : Memory :=
  image.foldl (fun m x => Memory.write none (romIndex x.bank x.w x.off) x.val m) []

/-- The store's side: the byte at `phys(b, w, perm(o))` (R334). -/
def readPhysical (perm : Offset → Offset) (interleaved : Bool) (m : Memory) (bank : Byte) (w : RomWindow)
    (off : Offset) : Option Byte :=
  Memory.find (physIndex interleaved bank w (perm off)) m

/-- The position of the aligned pair that holds both candidates of a fetch in the interleaved layout (20_memory R67,
R74). -/
def pairIndex (bank : Byte) (p : Offset) : Nat := (bank.toNat * 8192 + p.toNat) * 2

/-- The candidate the window-select flag picks: the high one when `romh` is set (R74). -/
def pairSelect (romh : Bool) (m : Memory) (i : Nat) : Option Byte :=
  if romh then Memory.find (i + 1) m else Memory.find i m

end Sys2Proof.Machine
end

