-- ==== Sys2Proof/Machine/Stimulus.lean ====
section
/-!
DEFINITION. The stimulus notation of 30_encoding R115 and its pseudo-operations (R116), the block's analogue of assembler
text: one line for each invocation.
-/

namespace Sys2Proof.Machine

/-- `<dir>`: a guest read, a guest write with its data, a video-half read (R115). -/
inductive StimulusDir where
  | r
  | w (data : Byte)
  | v
deriving DecidableEq, Repr

/-- One line `<dir> <window> $<addr> [#$<data>] [!rst] [!btn] [!ba0]` (R115). -/
structure StimulusLine where
  dir : StimulusDir
  window : Win
  addr : Offset
  rst : Bool := false
  btn : Bool := false
  ba : Bool := true
deriving DecidableEq, Repr

/-- The sample of a line: exactly the named select flag, `addr_hi` = 0 in an I/O window (R115). -/
def stimulusSample (x : StimulusLine) : BusCycleSample where
  addrLo := offLo x.addr
  addrHi := match x.window with | .io1 | .io2 => 0 | .roml | .romh | .unselected => offHi x.addr
  roml := x.window = .roml
  romh := x.window = .romh
  io1 := x.window = .io1
  io2 := x.window = .io2
  vid := x.dir = .v
  ba := x.ba
  rw := match x.dir with | .w _ => false | .r | .v => true
  data := match x.dir with | .w d => d | .r | .v => 0

/-- The dispatch word of a line in a session of variant `v` (R115). -/
def stimulusWord (v : Variant) (x : StimulusLine) : DispatchWord := dispatchWord v (stimulusSample x)

/-- The input a line presents. -/
def stimulusInput (x : StimulusLine) : Input := .clkIrq (envOf (stimulusSample x) x.rst x.btn)

/-- The line `R - $0000`. -/
def idleLine : StimulusLine := { dir := .r, window := .unselected, addr := 0 }

/-- `IDLE n` (R116). -/
def stimulusIdle (n : Nat) : List StimulusLine := List.replicate n idleLine

/-- `RESET n` (R116). -/
def stimulusReset (n : Nat) : List StimulusLine := List.replicate n { idleLine with rst := true }

/-- `PRESS n` (R116). -/
def stimulusPress (n : Nat) : List StimulusLine := List.replicate n { idleLine with btn := true }

/-- `PUSH3`: three consecutive guest writes with no window (R116). -/
def stimulusPush3 : List StimulusLine :=
  [{ dir := .w 0, window := .unselected, addr := 0x01FF }, { dir := .w 0, window := .unselected, addr := 0x01FE },
    { dir := .w 0, window := .unselected, addr := 0x01FD }]

end Sys2Proof.Machine
end

