-- ==== Sys2Proof/Safety.lean ====
section
/-!
DEFINITION. What a sound session is: the configurations activation accepts and the surrounding software prepares
(70_reset_and_hazards R410, R412, R430), and the invariant of the machine, group by group, in the terms the claims use.
-/

namespace Sys2Proof

/-- The configurations `Activate` lets pass (R410). -/
def Cfg.accepted (cfg : Cfg) : Prop := 1 ≤ cfg.bankCount ∧ cfg.bankCount ≤ 256 ∧ (cfg.hasL = true ∨ cfg.hasH = true)

/-- A mask of low-order ones (R412 (3)). -/
def lowOnes (m : Offset) : Prop := ∃ k ≤ 13, m.toNat = 2 ^ k - 1

/-- What the surrounding software guarantees of a configuration beyond that (R412 (3)). -/
structure Cfg.Prepared (cfg : Cfg) : Prop where
  offMaskL : lowOnes cfg.offMaskL
  offMaskH : lowOnes cfg.offMaskH
  resetDebounceN : 1 ≤ cfg.resetDebounceN
  buttonDebounceN : 1 ≤ cfg.buttonDebounceN
  flashSectorBanks : 1 ≤ cfg.flashSectorBanks

/-- The deadlines an implementation can keep in the stage order (R430). -/
structure Cfg.Timely (cfg : Cfg) : Prop where
  settleFirst : cfg.tSettle < cfg.tMux
  muxBeforeRead : cfg.tMux < cfg.tRead
  muxBeforeLatch : cfg.tMux ≤ cfg.tWlatch
  videoShorter : cfg.tVideo < cfg.tRead

end Sys2Proof

namespace Sys2Proof.Machine

/-- Every store in its canonical form. -/
structure StoresCanonical (s : State) : Prop where
  rom : Memory.wf (fillOf .rom) s.rom
  ram : Memory.wf (fillOf .ram) s.ram
  eep : Memory.wf (fillOf .eep) s.eep
  shadow : Memory.wf (fillOf .shadow) s.shadow

/-- Every cell of every store inside its space (20_memory R60 to R63, 10_state R40). -/
structure StoresInRange (s : State) : Prop where
  rom : ∀ c ∈ s.rom, c.1 < romSize s.cfg
  ram : ∀ c ∈ s.ram, c.1 < ramSize s.cfg
  eep : ∀ c ∈ s.eep, c.1 < 2 * eepWords s.cfg
  shadow : ∀ c ∈ s.shadow, c.1 < 512

/-- `BANK < BANK_COUNT` (10_state R13), and the same of the bank a prefetch is pending for. -/
structure BanksInRange (s : State) : Prop where
  accepted : s.cfg.accepted
  bank : s.reg.bank.toNat < s.cfg.bankCount
  dmaBank : s.dma.bank.toNat < s.cfg.bankCount

/-- The stall controller (45_memory_mux_dma R337 (a), (b), (e)) and the start values of its countdowns. -/
structure DmaSound (s : State) : Prop where
  oneAtATime : s.dma.pending = none ∨ s.dma.release = none
  stallIffRelease : s.stallOut = s.dma.release.isSome
  inertInCache : s.cfg.fitsInCache = true → s.dma.pending = none ∧ s.dma.release = none
  pendingBound : ∀ n, s.dma.pending = some n → n ≤ s.cfg.dmaTriggerDelay
  releaseBound : ∀ n, s.dma.release = some n → n ≤ s.cfg.dmaReleaseCount

/-- The resident set (10_state R34, 45_memory_mux_dma R338, R339): every bank in cache, or the active bank unless its
prefetch is still pending. -/
structure ResidencySound (s : State) : Prop where
  all : s.cfg.fitsInCache = true → s.resident = allBanks s.cfg
  current : s.cfg.fitsInCache = false → s.dma.pending = none → s.resident = [s.reg.bank]
  target : s.dma.pending ≠ none ∨ s.dma.release ≠ none → s.dma.bank = s.reg.bank

/-- The reset monitor (10_state R26, 60_exceptions R375). -/
structure ResetSound (s : State) : Prop where
  bound : s.rst.cnt ≤ s.cfg.resetDebounceN
  pressedIff : s.rst.pressed = true ↔ 0 < s.rst.cnt ∧ s.rst.cnt = s.cfg.resetDebounceN
  releasedIdle : s.rst.released = true → s.rst.cnt = 0

/-- The freeze machine (10_state R22, R27, 44_freezer R280 to R285). -/
structure FreezeSound (s : State) : Prop where
  btnBound : s.frz.btnCnt ≤ s.cfg.buttonDebounceN
  nmiBound : s.frz.nmiCnt ≤ s.cfg.nmiHold
  idleNoWrites : s.frz.fs = .idle → s.frz.wrCnt = 0
  armedFewWrites : s.frz.fs = .armed → s.frz.wrCnt < Config.freezeWrites
  activeAllWrites : s.frz.fs = .active → s.frz.wrCnt = Config.freezeWrites
  nmiOnlyArmed : s.nmiOut = true → s.frz.fs = .armed

/-- The auto-disable countdown (10_state R28). -/
def CapSound (s : State) : Prop := s.capCnt ≤ s.cfg.autoDisableCycles.getD 0

/-- The EEPROM interface (10_state R30, 43_gmod2 R253 to R257): a deselected chip is at rest, and a phase never holds more
bits than it takes. -/
structure EepromSound (s : State) : Prop where
  deselected : s.eepi.cs = false →
    s.eepi.phase = .waitStart ∧ s.eepi.sr = 0 ∧ s.eepi.n = 0 ∧ s.eepi.out = 0 ∧ s.eepi.dOut = false
  cmdBits : s.eepi.phase = .cmd → s.eepi.n < 12
  dataBits : s.eepi.phase = .dataIn ∨ s.eepi.phase = .dataInAll ∨ s.eepi.phase = .readOut → s.eepi.n < 16

/-- The variants that write CTRL (10_state R14). -/
def writesCtrl : Variant → Bool
  | .magicdesk | .ocean | .comal80 | .hucky | .prophet | .gmod2 | .actionreplay | .supersnapshot5 | .easyflash => true
  | .fixed | .c64gs | .simons | .dinamic | .epyx | .zaxxon | .freezeframe => false

/-- The variants with an operation that calls `SetBank`. -/
def switchesBank : Variant → Bool
  | .fixed | .simons | .epyx | .freezeframe => false
  | .magicdesk | .c64gs | .ocean | .comal80 | .hucky | .prophet | .dinamic | .easyflash | .gmod2 | .zaxxon
  | .actionreplay | .supersnapshot5 => true

/-- State a variant does not use holds its reset value for the whole session (10_state R14, R15, R22, R27, R29, R30,
41_simple_bank R170, R187, 44_freezer section 2). -/
structure ForeignAtRest (s : State) : Prop where
  bank : switchesBank s.cfg.variant = false → s.reg.bank = 0
  ctrl : writesCtrl s.cfg.variant = false → s.reg.ctrl = 0
  ramexp : s.cfg.variant ≠ .actionreplay → s.cfg.variant ≠ .supersnapshot5 → s.reg.ramexp = false
  freeze : isFreezer s.cfg.variant = false → s.frz = ⟨.idle, 0, 0, 0⟩ ∧ s.nmiOut = false
  flash : s.cfg.variant ≠ .easyflash → s.flash = ⟨.read, .read⟩
  eepi : s.cfg.variant ≠ .gmod2 → s.eepi = EepromIface.initial

/-- The outputs of a block with no session (60_exceptions R371). -/
def NoCartridge (s : State) : Prop :=
  s.map = modeOff ∧ s.nmiOut = false ∧ s.stallOut = false ∧ s.drive = none

/-- The invariant of the machine. -/
structure Inv (s : State) : Prop where
  canonical : StoresCanonical s
  inRange : StoresInRange s
  banks : BanksInRange s
  dma : DmaSound s
  residency : ResidencySound s
  reset : ResetSound s
  freeze : FreezeSound s
  cap : CapSound s
  eeprom : EepromSound s
  foreign : ForeignAtRest s
  outputs : s.active = false → NoCartridge s

end Sys2Proof.Machine
end

