-- ==== Sys2Proof/Certificates/Slice0/Obligations.lean ====
section
/-!
DEFINITION. The statements about the machine. `Sys2Proof.Claims` holds the words they are written in, read off the spec
and not off the meanings: bit fields of a data byte as arithmetic on its number, results as whole states, so that what an
operation leaves unchanged is part of every result.
-/

namespace Sys2Proof.Claims

open Sys2Proof.Machine

/-! ### Words for results -/

/-- The operation completes, and its one effect is the given byte on the data lines, if one is given (40_cycle R150). -/
def Drives (i : Instr) (s : State) (o : Option Byte) : Prop := exec i s = .next { s with drive := o.or s.drive }

/-- The logical ROM byte (bank, window, masked offset) (45_memory_mux_dma R330). -/
def romAt (s : State) (b : Byte) (w : RomWindow) (off : Offset) : Byte :=
  memRead .rom (romIndex b w (off &&& offMask s.cfg w)) s

/-- The byte of a plain ROM read: none while CARTEN = 0 or without data for the window (R333). -/
def gatedRom (s : State) (b : Byte) (w : RomWindow) (off : Offset) : Option Byte :=
  if s.reg.carten = true ∧ hasWindow s.cfg w = true then some (romAt s b w off) else none

/-- The byte of a mirrored ROM-high read of the active bank: ROM-high data, else ROM-low data (44_freezer R280). -/
def mirroredRom (s : State) (off : Offset) : Option Byte :=
  if s.cfg.hasH = true then gatedRom s s.reg.bank .h off else gatedRom s s.reg.bank .l off

/-- `AtomicRam` (44_freezer section 3). -/
abbrev AtomicRam (s : State) : Prop := s.cfg.arAtomic = true ∧ s.reg.ramexp = true ∧ s.reg.ctrl.toNat % 4 = 2

/-- The byte of a ROM-high access of ACTIONREPLAY (44_freezer R292). -/
def actionReplayHigh (s : State) (off : Offset) : Option Byte :=
  if s.reg.carten = true ∧ AtomicRam s then some (memRead .ram off.toNat s) else mirroredRom s off

/-- The byte of a video-half ROM-high read, by the table of 46_video_window R360. -/
def videoHigh (s : State) (off : Offset) : Option Byte :=
  match s.cfg.variant with
  | .fixed | .simons => gatedRom s 0 .h off
  | .ocean => gatedRom s s.reg.bank .l off
  | .comal80 | .easyflash | .zaxxon => gatedRom s s.reg.bank .h off
  | .freezeframe | .supersnapshot5 => mirroredRom s off
  | .actionreplay => actionReplayHigh s off
  | .magicdesk | .c64gs | .hucky | .prophet | .dinamic | .epyx | .gmod2 => none

/-- The byte of a window that shows the RAM at `i` while RAMEXP = 1 and ROM-low data of BANK otherwise (R290). -/
def ramOrRom (s : State) (i : Nat) (off : Offset) : Option Byte :=
  if s.reg.carten = true ∧ s.reg.ramexp = true then some (memRead .ram i s) else gatedRom s s.reg.bank .l off

/-- The index of a SUPERSNAPSHOT5 RAM byte, `BANK * 8192 + OFF` in 32 KiB (44_freezer section 4). -/
def ssRam (s : State) (off : Offset) : Nat := (s.reg.bank.toNat * 8192 + off.toNat) % 32768

/-- The operation completes, and its one effect is that the RAM byte at `a` becomes `d`. -/
def WritesRam (i : Instr) (s : State) (a : Nat) (d : Byte) : Prop :=
  ∃ t, exec i s = .next t ∧ t = { s with ram := t.ram } ∧
    ∀ b, memRead .ram b t = if b = a then d else memRead .ram b s

/-- CTRL <- d. -/
def ctrlWritten (d : Byte) (s : State) : State := { s with reg := { s.reg with ctrl := d } }

/-- RAMEXP <- b. -/
def ramexpWritten (b : Bool) (s : State) : State := { s with reg := { s.reg with ramexp := b } }

/-- `SetBank(n mod BANK_COUNT)`; what `setBank` does is `Obligations.BankSwitchRequestsTheStall`. -/
def switched (n : Nat) (s : State) : State := setBank (BitVec.ofNat 8 (n % s.cfg.bankCount)) s

/-- CARTEN <- c and the mapping lines set. -/
def mapped (c : Bool) (m : MapMode) (s : State) : State := { s with reg := { s.reg with carten := c }, map := m }

/-- The mapping lines set, CARTEN as it is. -/
def linesSet (m : MapMode) (s : State) : State := { s with map := m }

/-- `cap_cnt <- c` when `AUTO_DISABLE_CYCLES = some c`. -/
def rearmed (s : State) : State := { s with capCnt := s.cfg.autoDisableCycles.getD s.capCnt }

/-- Bit `k` of a byte. -/
def bit (d : Byte) (k : Nat) : Bool := d.toNat / 2 ^ k % 2 = 1

/-! ### Words for runs -/

/-- The operations one after another. -/
def execAll : List Instr → State → Host.Outcome State Fault Refusal
  | [], s => .next s
  | i :: is, s =>
    match exec i s with
    | .next t => execAll is t
    | .fault r => .fault r
    | .refused r => .refused r

/-- The sample of an invocation (40_cycle R143, R144, R154): phase 1 supplies the address low byte, the direction, the
video-half and bus-available flags, phase 2 the high address bits and the selects, where phase 1 is used again in the video
half of a board that skips phase 2 (46_video_window R363); the data byte is the one at the write-latch deadline (log 14). -/
def sampleTaken (cfg : Cfg) (env : Env) : BusCycleSample :=
  let second := if cfg.videoSkipPhase2 = true ∧ env.p1.vid = true then env.p1 else env.p2
  { addrLo := BitVec.ofNat 8 env.p1.addr.toNat
    addrHi := BitVec.ofNat 5 (second.addr.toNat / 256)
    roml := second.selRoml
    romh := second.selRomh
    io1 := second.selIo1
    io2 := second.selIo2
    vid := env.p1.vid
    ba := env.p1.ba
    rw := env.p1.rw
    data := env.pw }

/-- Stage 7 of an invocation, innermost first: the stall controller, the auto-disable capacitor, the NMI hold, the button,
and the reset monitor last, with the two input lines of the invocation (40_cycle R152). -/
def stageSeven (env : Env) (s : State) : State :=
  resetTick env.resetIn (buttonTick env.buttonIn (nmiTick (capTick (dmaTick s))))

/-- One invocation of a live session: the next input is the clock interrupt with these lines, and the step answers `t`. -/
def Cycle (s : State) (env : Env) (t : State) : Prop :=
  s.active = true ∧ s.inputs.head? = some (.clkIrq env) ∧ step s = .next t

/-- The reset tick of this invocation reaches the threshold (60_exceptions R375). -/
def FiresReset (s : State) (env : Env) : Prop := env.resetIn = true ∧ s.rst.cnt + 1 = s.cfg.resetDebounceN

/-- The operand fields replaced: OFF, AL and D. -/
def withOperands (off : Offset) (al d : Byte) : Instr → Instr
  | .fxRomlR _ => .fxRomlR off
  | .fxRomhR _ => .fxRomhR off
  | .mdRomlR _ => .mdRomlR off
  | .mdIo1W _ _ => .mdIo1W al d
  | .gsRomlR _ => .gsRomlR off
  | .gsIo1W _ _ => .gsIo1W al d
  | .gsIo1R _ => .gsIo1R al
  | .ocRomlR _ => .ocRomlR off
  | .ocRomhR _ => .ocRomhR off
  | .ocIo1W _ _ => .ocIo1W al d
  | .coRomlR _ => .coRomlR off
  | .coRomhR _ => .coRomhR off
  | .coIo1W _ _ => .coIo1W al d
  | .huRomlR _ => .huRomlR off
  | .huIo1W _ _ => .huIo1W al d
  | .prRomlR _ => .prRomlR off
  | .prIo2W _ _ => .prIo2W al d
  | .sbRomlR _ => .sbRomlR off
  | .sbRomhR _ => .sbRomhR off
  | .sbIo1W _ _ => .sbIo1W al d
  | .sbIo1R _ => .sbIo1R al
  | .diRomlR _ => .diRomlR off
  | .diIo1R _ => .diIo1R al
  | .epRomlR _ => .epRomlR off
  | .epIo1R _ => .epIo1R al
  | .epIo2R _ => .epIo2R al
  | .zxRomlR _ => .zxRomlR off
  | .zxRomhR _ => .zxRomhR off
  | .efRomlR _ => .efRomlR off
  | .efRomhR _ => .efRomhR off
  | .efIo1WBank _ _ => .efIo1WBank al d
  | .efIo1WCtrl _ _ => .efIo1WCtrl al d
  | .efIo2R _ => .efIo2R al
  | .efIo2W _ _ => .efIo2W al d
  | .efRomlW _ _ => .efRomlW off d
  | .efRomhW _ _ => .efRomhW off d
  | .gmRomlR _ => .gmRomlR off
  | .gmIo1W _ _ => .gmIo1W al d
  | .gmIo1R _ => .gmIo1R al
  | .ffRomlR _ => .ffRomlR off
  | .ffRomhR _ => .ffRomhR off
  | .ffIo1R _ => .ffIo1R al
  | .ffIo2R _ => .ffIo2R al
  | .arRomlR _ => .arRomlR off
  | .arRomlW _ _ => .arRomlW off d
  | .arRomhR _ => .arRomhR off
  | .arRomhW _ _ => .arRomhW off d
  | .arIo1W _ _ => .arIo1W al d
  | .arIo2R _ => .arIo2R al
  | .arIo2W _ _ => .arIo2W al d
  | .ssRomlR _ => .ssRomlR off
  | .ssRomlW _ _ => .ssRomlW off d
  | .ssRomhR _ => .ssRomhR off
  | .ssIo1W _ _ => .ssIo1W al d
  | .ssIo1R _ => .ssIo1R al
  | .vidRomhR _ => .vidRomhR off
  | .vidIgnW => .vidIgnW
  | .vidIgnNr => .vidIgnNr
  | .ign => .ign

/-- The ROM-window read operations (30_encoding R107, columns ROML R and ROMH R). -/
def isRomRead : Instr → Bool
  | .fxRomlR _ | .fxRomhR _ | .mdRomlR _ | .gsRomlR _ | .ocRomlR _ | .ocRomhR _ | .coRomlR _ | .coRomhR _ | .huRomlR _
  | .prRomlR _ | .sbRomlR _ | .sbRomhR _ | .diRomlR _ | .epRomlR _ | .zxRomlR _ | .zxRomhR _ | .efRomlR _ | .efRomhR _
  | .gmRomlR _ | .ffRomlR _ | .ffRomhR _ | .arRomlR _ | .arRomhR _ | .ssRomlR _ | .ssRomhR _ => true
  | .mdIo1W _ _ | .gsIo1W _ _ | .gsIo1R _ | .ocIo1W _ _ | .coIo1W _ _ | .huIo1W _ _ | .prIo2W _ _ | .sbIo1W _ _
  | .sbIo1R _ | .diIo1R _ | .epIo1R _ | .epIo2R _ | .efIo1WBank _ _ | .efIo1WCtrl _ _ | .efIo2R _ | .efIo2W _ _
  | .efRomlW _ _ | .efRomhW _ _ | .gmIo1W _ _ | .gmIo1R _ | .ffIo1R _ | .ffIo2R _ | .arRomlW _ _ | .arRomhW _ _
  | .arIo1W _ _ | .arIo2R _ | .arIo2W _ _ | .ssRomlW _ _ | .ssIo1W _ _ | .ssIo1R _ | .vidRomhR _ | .vidIgnW | .vidIgnNr
  | .ign => false

/-- The EasyFlash write to a ROM window (42_easyflash R226, R227). -/
def flashInstr (w : RomWindow) (off : Offset) (d : Byte) : Instr :=
  match w with
  | .l => .efRomlW off d
  | .h => .efRomhW off d

/-- The EasyFlash read of a ROM window (42_easyflash R220, R221). -/
def flashRead (w : RomWindow) (off : Offset) : Instr :=
  match w with
  | .l => .efRomlR off
  | .h => .efRomhR off

/-- The two reserved offsets, compared on their low eleven bits (30_encoding R113). -/
def atFlA (off : Offset) : Prop := off.toNat % 2048 = 0x555
/-- See `atFlA`. -/
def atFlB (off : Offset) : Prop := off.toNat % 2048 = 0x2AA

/-- Every logical ROM byte as before but for the named ones. -/
def romOutside (p : Byte → RomWindow → Offset → Prop) (s t : State) : Prop :=
  ∀ b w off, ¬p b w off → memRead .rom (romIndex b w off) t = memRead .rom (romIndex b w off) s

/-! ### Words for the EEPROM -/

/-- The EEPROM word `a`: low byte at the even index (20_memory R62). -/
def wordAt (s : State) (a : Nat) : BitVec 16 := memRead .eep (2 * a + 1) s ++ memRead .eep (2 * a) s

/-- One bit sent with the chip selected: clock low, clock high (43_gmod2 section 3). -/
def sendBit (b : Bool) : List Instr :=
  if b then [.gmIo1W 0 0x50, .gmIo1W 0 0x70] else [.gmIo1W 0 0x40, .gmIo1W 0 0x60]

/-- The records of the EEPROM bytes that differ, ascending: one `PersistEep` each, with the new byte (43_gmod2 R256). -/
def changedBytes (s t : State) : List OutEvent :=
  (List.range 2048).filterMap fun i =>
    if memRead .eep i t = memRead .eep i s then none else some (.persistEep i (memRead .eep i t))

/-- `ee_sr` with one more bit at its low end. -/
def shiftedIn (sr : BitVec 16) (di : Bool) : BitVec 16 := BitVec.ofNat 16 (2 * sr.toNat + di.toNat)

/-- Chip-select raised, then the bits. -/
def selectAndSend (bits : List Bool) : List Instr := .gmIo1W 0 0x40 :: bits.flatMap sendBit

/-- The bits of a number, most significant first. -/
def bitsOf {n : Nat} (x : BitVec n) : List Bool := (List.range n).map fun k => x.getMsbD k

/-! ### Words for sessions -/

/-- The last byte a loader's list gives an index. -/
def lastAt (a : Nat) (cells : List Host.Cell) : Option Byte := (cells.reverse.find? fun c => c.1 = a).map (·.2)

/-- No session: nothing runs and nothing is asserted or driven (60_exceptions R371). -/
def NoSession (t : State) : Prop := t.active = false ∧ NoCartridge t

end Sys2Proof.Claims

open Sys2Proof Sys2Proof.Machine Sys2Proof.Claims

/-! ## Encoding and decoding -/

/-- Decoding the encoding of a well-formed operation gives it back, with every operand value. The layout of the word
is decision D2, the canonical form of the encoder log 20. -/
def Obligations.DecodeEncodeAgree : Prop :=
  ∀ i : Instr, i.wellFormed = true → decode (encode i) = i ∧ decodeTableWord 32 (encode i).toNat = some i

/-- Whatever is decoded is well formed. Decision D7. -/
def Obligations.DecodedOperationsAreWellFormed : Prop := ∀ dw : DispatchWord, (decode dw).wellFormed = true

/-- The decode function is the mask and match table: at most one row holds, the row that holds names the operation,
and with none it is `IGN`. Decisions D2, D7 and D8 (log 19). -/
def Obligations.DecodeFollowsTheOpcodeTable : Prop :=
  ∀ dw : DispatchWord,
    (opcodeTable.Pairwise fun a b => ¬(dw &&& a.mask = a.pattern ∧ dw &&& b.mask = b.pattern)) ∧
    (∀ row ∈ opcodeTable, dw &&& row.mask = row.pattern → (decode dw).mnemonic = row.mnemonic) ∧
    ((∀ row ∈ opcodeTable, dw &&& row.mask ≠ row.pattern) → decode dw = .ign)

/-- The operands of a decoded operation are the fields of its word: OFF bits 12..0, AL bits 7..0, D bits 27..20.
Decision D2. -/
def Obligations.DecodedOperandsAreTheWordFields : Prop :=
  ∀ dw : DispatchWord,
    decode dw = withOperands (BitVec.ofNat 13 dw.toNat) (BitVec.ofNat 8 dw.toNat) (BitVec.ofNat 8 (dw.toNat / 2 ^ 20))
      (decode dw)

/-- The row decoded never depends on the data byte or on bus-available, and on a read nothing does. Decision D7. -/
def Obligations.DecodeIgnoresDataAndBusAvailable : Prop :=
  ∀ (v : Variant) (S : BusCycleSample) (d : Byte) (b : Bool),
    (decodeSample v { S with data := d, ba := b }).mnemonic = (decodeSample v S).mnemonic ∧
    (S.rw = true → decodeSample v { S with data := d, ba := b } = decodeSample v S)

/-- Dispatch words of the spec's examples decode to the operations they stand for (sanity). Decisions D2 and D8. -/
def Obligations.KnownWordsDecode : Prop :=
  decode 0x000C2000 = .fxRomlR 0 ∧ decode 0x14148000 = .mdIo1W 0x00 0x41 ∧ decode 0x2FF48005 = .gsIo1W 0x05 0xFF ∧
  decode 0x60750000 = .prIo2W 0x00 0x07 ∧ decode 0xA0748002 = .efIo1WCtrl 0x02 0x07 ∧
  decode 0xB6048000 = .gmIo1W 0x00 0x60 ∧ decode 0xE9950010 = .arIo2W 0x10 0x99 ∧
  decode 0x000E4123 = .vidRomhR 0x123 ∧ decode 0x51264000 = .vidIgnW ∧ decode 0x300E2123 = .vidIgnNr

/-! ## The step -/

/-- A step of a live session runs the operation its sample decodes to: the outputs cleared, the shadow byte, then the
operation, then freeze observation of a CPU-half sample, then the five ticks in their order, in either half (40_cycle R140,
R152). Which capture supplies which field of the sample is decision D5, the order of the stages and of the ticks D12, the
shadow byte D43, the skipped phase D40, the list of inputs log 1. -/
def Obligations.StepRunsTheDecodedOperation : Prop :=
  ∀ (s : State) (env : Env) (rest : List Input) (i : Instr),
    s.active = true → s.inputs = .clkIrq env :: rest →
    decode (dispatchWord s.cfg.variant (sampleTaken s.cfg env)) = i →
    step s =
      match exec i (recordShadow (sampleTaken s.cfg env) { s with inputs := rest, drive := none, events := [] }) with
      | .next t => .next (stageSeven env (if env.p1.vid = true then t else freezeObserve env.p1.rw t))
      | .fault r => .fault r
      | .refused r => .refused r

/-- A dispatch word put in front of the machine is what its very next step executes, with the stages of an invocation around
it. How a word is presented is log 2, the order of the stages and of the ticks decision D12. -/
def Obligations.FetchedWordRunsNext : Prop :=
  ∀ (s : State) (n w : Nat),
    let S := wordSample (BitVec.ofNat 32 w)
    step (s.withFetchWord n w) =
      match exec (decode (BitVec.ofNat 32 w))
          (recordShadow S { s.withFetchWord n w with inputs := s.inputs, drive := none, events := [] }) with
      | .next t =>
        .next (stageSeven (envOf S false false) (if S.vid = true then t else freezeObserve S.rw t))
      | .fault r => .fault r
      | .refused r => .refused r

/-- No operation and no step ever fails: each answers a next state, from every state. 60_exceptions R370. -/
def Obligations.EveryStepCompletes : Prop :=
  (∀ (i : Instr) (s : State), ∃ t, exec i s = .next t) ∧ ∀ s : State, ∃ t, step s = .next t

/-- With no input the block is idle, and without a session the clock interrupt does nothing. The list of inputs is log
1, the machine without a session log 9 and 10. -/
def Obligations.IdleWithoutInputOrSession : Prop :=
  ∀ s : State,
    (s.inputs = [] → step s = .next s) ∧
    ∀ env rest, s.active = false → s.inputs = .clkIrq env :: rest → step s = .next { s with inputs := rest }

/-- An invocation consumes its input and never touches the configuration or the session. The fields held are log 3, 8
and 9. -/
def Obligations.ConfigurationIsFixedInASession : Prop :=
  ∀ (s t : State) (env : Env), Cycle s env t →
    t.cfg = s.cfg ∧ t.active = true ∧ t.sessionNo = s.sessionNo ∧ t.loadError = s.loadError ∧ t.inputs = s.inputs.tail

/-- An invocation does not depend on the byte driven and the events recorded by the one before. Decisions D41 and D44,
outputs held in the state log 8. -/
def Obligations.OutputsAreFreshEachInvocation : Prop :=
  ∀ (s : State) (env : Env) (rest : List Input) (o : Option Byte) (es : List OutEvent),
    s.active = true → s.inputs = .clkIrq env :: rest → step { s with drive := o, events := es } = step s

/-- An invocation whose sample is a guest write drives nothing. Decision D41. -/
def Obligations.WritesDriveNothing : Prop :=
  ∀ (s t : State) (env : Env), Cycle s env t → env.p1.rw = false → t.drive = none

/-- Non-video writes routed to an I/O window are recorded in the shadow byte of their address, and nothing else
changes a shadow byte. Decision D43. -/
def Obligations.ShadowRecordsEveryIoWrite : Prop :=
  ∀ (s t : State) (env : Env), Cycle s env t →
    ∀ (io2 : Bool) (al : Byte),
      memRead .shadow (shadowIndex io2 al) t =
        if env.p1.vid = false ∧ env.p1.rw = false ∧ (sampleTaken s.cfg env).win = (if io2 then .io2 else .io1) ∧
            env.p1.addr.toNat % 256 = al.toNat then env.pw
        else memRead .shadow (shadowIndex io2 al) s

/-! ## The video half -/

/-- The three video operations and `IGN` complete; only a ROM-high read drives a byte, and nothing else changes. The
byte is decision D40, `IGN` D42. -/
def Obligations.VideoOperationsOnlyDrive : Prop :=
  ∀ (s : State) (off : Offset),
    Drives (.vidRomhR off) s (videoHigh s off) ∧ exec .vidIgnW s = .next s ∧ exec .vidIgnNr s = .next s ∧
    exec .ign s = .next s

/-- Stage 5 chooses by the video-half flag alone: a video-half invocation changes nothing before its ticks but the driven
byte, and drives on a ROM-high read only; any other dispatches one operation of the variant and is then observed by the
freeze machine (40_cycle section 1). The five ticks run in both halves, in their order (40_cycle R152). Which byte is driven
is decision D40, the shadow byte D43, the order of the stages and of the ticks D12, the fields of the sample D5. -/
def Obligations.StageFiveChoosesByTheVideoHalf : Prop :=
  ∀ (s t : State) (env : Env), Cycle s env t →
    let S := sampleTaken s.cfg env
    let r := { s with inputs := s.inputs.tail, events := [], drive := none }
    (env.p1.vid = true →
      t = stageSeven env
        { r with drive := if env.p1.rw = true ∧ S.romh = true then videoHigh s S.off else none }) ∧
    (env.p1.vid = false →
      ∃ u, exec (decodeVariant s.cfg.variant S) (recordShadow S r) = .next u ∧
        t = stageSeven env (freezeObserve env.p1.rw u))

/-- In every session the video-half ROM-high read does exactly what the ROM-high read of the CPU half does. The spec
marks it as derived (46_video_window R360), decision D40. -/
def Obligations.VideoByteIsTheCpuRomHighByte : Prop :=
  ∀ (s : State) (S : BusCycleSample), S.vid = false → S.rw = true → S.romh = true →
    exec (.vidRomhR S.off) s = exec (decodeSample s.cfg.variant S) s

/-! ## ROM reads -/

/-- FIXED and SIMONS reads answer from bank 0. Decisions D22 and D29. -/
def Obligations.FixedBankReads : Prop :=
  ∀ (s : State) (off : Offset),
    Drives (.fxRomlR off) s (gatedRom s 0 .l off) ∧ Drives (.fxRomhR off) s (gatedRom s 0 .h off) ∧
    Drives (.sbRomlR off) s (gatedRom s 0 .l off) ∧ Drives (.sbRomhR off) s (gatedRom s 0 .h off)

/-- The reads of the banked variants answer from the active bank; OCEAN's ROM-high window shows its ROM-low data.
Decisions D22, D25 and D36. -/
def Obligations.ActiveBankReads : Prop :=
  ∀ (s : State) (off : Offset),
    (∀ i ∈ [Instr.mdRomlR off, .gsRomlR off, .ocRomlR off, .ocRomhR off, .coRomlR off, .huRomlR off, .prRomlR off,
        .diRomlR off, .efRomlR off, .gmRomlR off, .ffRomlR off],
      Drives i s (gatedRom s s.reg.bank .l off)) ∧
    ∀ i ∈ [Instr.coRomhR off, .zxRomhR off, .efRomhR off], Drives i s (gatedRom s s.reg.bank .h off)

/-- The ROM-high reads of the freezers: ROM-high data, else the ROM-low data; the AtomicPower shows its RAM there.
Decisions D18, D37, D38 and D39. -/
def Obligations.FreezerRomHighReads : Prop :=
  ∀ (s : State) (off : Offset),
    Drives (.ffRomhR off) s (mirroredRom s off) ∧ Drives (.ssRomhR off) s (mirroredRom s off) ∧
    Drives (.arRomhR off) s (actionReplayHigh s off)

/-- The freezer windows that show RAM while it is exported and ROM otherwise, and the ROM page of SUPERSNAPSHOT5.
Decisions D38 and D39. -/
def Obligations.RamOrRomReads : Prop :=
  ∀ (s : State) (off : Offset) (al : Byte),
    Drives (.arRomlR off) s (ramOrRom s off.toNat off) ∧
    Drives (.arIo2R al) s (ramOrRom s (0x1F00 + al.toNat) (BitVec.ofNat 13 (0x1F00 + al.toNat))) ∧
    (s.cfg.variant = .supersnapshot5 → Drives (.ssRomlR off) s (ramOrRom s (ssRam s off) off)) ∧
    Drives (.ssIo1R al) s (gatedRom s s.reg.bank .l (BitVec.ofNat 13 (0x1E00 + al.toNat)))

/-- The I/O reads that CARTEN does not gate: the last ROM page of EPYX, the EASYFLASH RAM, the GMOD2 data-out.
Decisions D31, D34 and D51. -/
def Obligations.UngatedIoReads : Prop :=
  ∀ (s : State) (al : Byte),
    Drives (.epIo2R al) s
      (if s.cfg.hasL = true then some (romAt s 0 .l (BitVec.ofNat 13 (0x1F00 + al.toNat))) else none) ∧
    Drives (.efIo2R al) s (some (memRead .ram al.toNat s)) ∧
    Drives (.gmIo1R al) s (some (if s.eepi.cs = true ∧ s.eepi.dOut = true then 0x80 else 0x00))

/-- A ROM-window read run twice in a row drives the same byte, the reads with side effects included. -/
def Obligations.RomReadsAreIdempotent : Prop :=
  ∀ (i : Instr) (s t u : State), isRomRead i = true → s.drive = none →
    exec i s = .next t → exec i (beginInvocation t) = .next u → u.drive = t.drive

/-! ## Stores -/

/-- The two memory primitives, 20_memory R63: a byte written is the byte read at that index of that store, every other
byte of every store is as before, and nothing but the stores changes; a flash program writes the byte that stood there AND
the value; the indices the operations form are inside their store. The store as a list of cells is log 4 to 7. -/
def Obligations.StoreReadAfterWrite : Prop :=
  (∀ (s : State) (sp sp' : Space) (a b : Nat) (v : Byte),
    memRead sp' b (memWrite sp a v s) = if sp' = sp ∧ b = a then v else memRead sp' b s) ∧
  (∀ (s : State) (sp : Space) (a : Nat) (v : Byte),
    let t := memWrite sp a v s
    t = { s with rom := t.rom, ram := t.ram, eep := t.eep, shadow := t.shadow }) ∧
  (∀ (s : State) (bank : Byte) (w : RomWindow) (off : Offset) (v : Byte) (sp : Space) (b : Nat),
    let a := romIndex bank w (off &&& offMask s.cfg w)
    memRead sp b (flashProgram bank w off v s) =
      if sp = .rom ∧ b = a then memRead .rom a s &&& v else memRead sp b s) ∧
  ∀ (s : State) (b al : Byte) (w : RomWindow) (off : Offset) (n : Nat), s.cfg.accepted →
    (b.toNat < s.cfg.bankCount → romIndex b w (off &&& offMask s.cfg w) < romSize s.cfg) ∧
    n % s.cfg.bankCount < s.cfg.bankCount ∧
    (s.cfg.variant = .easyflash → al.toNat < ramSize s.cfg) ∧
    (s.cfg.variant = .actionreplay → off.toNat < ramSize s.cfg ∧ 0x1F00 + al.toNat < ramSize s.cfg) ∧
    (s.cfg.variant = .supersnapshot5 → ramIdx s off < ramSize s.cfg) ∧
    (s.cfg.variant = .gmod2 → 2 * (n % eepWords s.cfg) + 1 < 2 * eepWords s.cfg)

/-- The RAM writes: the byte at the computed index, nothing else; ignored where the RAM is not there. Decisions D38,
D39 and D51. -/
def Obligations.RamWrites : Prop :=
  ∀ (s : State) (off : Offset) (al d : Byte),
    WritesRam (.efIo2W al d) s al.toNat d ∧
    (s.reg.carten = true ∧ s.reg.ramexp = true →
      WritesRam (.arRomlW off d) s off.toNat d ∧ WritesRam (.arIo2W al d) s (0x1F00 + al.toNat) d ∧
      (s.cfg.variant = .supersnapshot5 → WritesRam (.ssRomlW off d) s (ssRam s off) d)) ∧
    (¬(s.reg.carten = true ∧ s.reg.ramexp = true) →
      ∀ i ∈ [Instr.arRomlW off d, .arIo2W al d, .ssRomlW off d], exec i s = .next s) ∧
    (s.reg.carten = true ∧ AtomicRam s → WritesRam (.arRomhW off d) s off.toNat d) ∧
    (¬(s.reg.carten = true ∧ AtomicRam s) → exec (.arRomhW off d) s = .next s)

/-- No operation changes ROM but a flash program or erase while CARTEN = 1, RAM but the RAM windows, the EEPROM but the
GMOD2 register with the write-enable latch set. The protocols are decisions D33, D35, D38, D39 and D51; that CARTEN gates
the flash writes too is 20_memory R73 (log 22). -/
def Obligations.StoresChangeOnlyThroughTheirProtocols : Prop :=
  ∀ (i : Instr) (s t : State), exec i s = .next t → ∀ a,
    (memRead .rom a t ≠ memRead .rom a s →
      s.reg.carten = true ∧ ∃ w off d, i = flashInstr w off d ∧ hasWindow s.cfg w = true ∧
        (flashOf s w = .program ∨ flashOf s w = .e2 ∧ d = 0x30)) ∧
    (memRead .ram a t ≠ memRead .ram a s →
      (∃ al d, i = .efIo2W al d) ∨
      s.reg.carten = true ∧ s.reg.ramexp = true ∧
        ((∃ off d, i = .arRomlW off d ∨ i = .arRomhW off d ∨ i = .ssRomlW off d) ∨ ∃ al d, i = .arIo2W al d)) ∧
    (memRead .eep a t ≠ memRead .eep a s → s.eepi.wen = true ∧ ∃ al d, i = .gmIo1W al d) ∧
    memRead .shadow a t = memRead .shadow a s

/-- Every step keeps every store in its canonical form. The canonical form is the model's own (log 4 to 7). -/
def Obligations.EveryStepKeepsStoresCanonical : Prop :=
  ∀ s t : State, StoresCanonical s → step s = .next t → StoresCanonical t

/-- The physical store returns the logical byte, in both layouts, whatever injective permutation load and read share. The
two layouts are decision D21, the logical numbering is the model's (log 13). -/
def Obligations.PhysicalStoreReturnsTheLogicalByte : Prop :=
  ∀ (perm : Offset → Offset) (interleaved : Bool) (image : List ImageByte) (b : Byte) (w : RomWindow) (off : Offset),
    Function.Injective perm →
    readPhysical perm interleaved (loadPhysical perm interleaved image) b w off =
      Memory.find (romIndex b w off) (loadLogical image)

/-- The recorded permutation is a bijection, and the aligned pair of the interleaved layout holds both candidates.
Decision D21, general knowledge in the spec (log 13, 19). -/
def Obligations.PermutationAndPairFetch : Prop :=
  (∀ o : Offset, cacheToLinearOrder (linearToCacheOrder o) = o ∧ linearToCacheOrder (cacheToLinearOrder o) = o) ∧
  ∀ (romh : Bool) (m : Memory) (b : Byte) (p : Offset),
    pairIndex b p % 2 = 0 ∧
    pairSelect romh m (pairIndex b p) = Memory.find (physIndex true b (if romh then .h else .l) p) m

/-! ## Bank switching and the stall controller -/

/-- `SetBank` and `DmaRequest`: what a bank switch changes, in each state of the controller. Decision D19. -/
def Obligations.BankSwitchRequestsTheStall : Prop :=
  ∀ (s : State) (nb : Byte),
    (nb = s.reg.bank → setBank nb s = s) ∧
    (nb ≠ s.reg.bank →
      (s.cfg.fitsInCache = true → setBank nb s = { s with reg := { s.reg with bank := nb } }) ∧
      (s.cfg.fitsInCache = false →
        (s.dma.release ≠ none →
          setBank nb s =
            { s with
              reg := { s.reg with bank := nb }
              dma := { pending := s.dma.pending, release := some s.cfg.dmaReleaseCount, bank := nb }
              events := s.events ++ [.prefetch nb]
              resident := [nb] }) ∧
        (s.dma.release = none →
          setBank nb s =
            { s with
              reg := { s.reg with bank := nb }
              dma := { pending := some s.cfg.dmaTriggerDelay, release := none, bank := nb } })))

/-- The controller tick by tick, each result as a whole state; the timeline of a stall, asserted by the tick
`DMA_TRIGGER_DELAY` invocations after the switch with one prefetch of the new bank, and released `DMA_RELEASE_COUNT + 1`
ticks later; and the timeline of a stall that a second switch restarts, which prefetches at the switch and counts the whole
release again. The spec marks the timelines as derived (45_memory_mux_dma R335, R336), decisions D19 and D20. -/
def Obligations.StallTimeline : Prop :=
  (∀ (s : State) (n : Nat),
    (s.dma.release = some 0 → dmaTick s = { s with stallOut := false, dma := { s.dma with release := none } }) ∧
    (s.dma.release = some (n + 1) → dmaTick s = { s with dma := { s.dma with release := some n } }) ∧
    (s.dma.release = none →
      (s.dma.pending = some 0 →
        dmaTick s =
          { s with
            stallOut := true
            dma := { pending := none, release := some s.cfg.dmaReleaseCount, bank := s.dma.bank }
            events := s.events ++ [.prefetch s.dma.bank]
            resident := [s.dma.bank] }) ∧
      (s.dma.pending = some (n + 1) → dmaTick s = { s with dma := { s.dma with pending := some n } }) ∧
      (s.dma.pending = none → dmaTick s = s))) ∧
  ∀ (s : State) (nb : Byte) (m : Nat),
    s.cfg.fitsInCache = false → nb ≠ s.reg.bank →
    let d := s.cfg.dmaTriggerDelay
    let r := s.cfg.dmaReleaseCount
    let t := dmaTick^[m] (setBank nb s)
    let waiting : State :=
      { s with reg := { s.reg with bank := nb }, dma := { pending := some (d - m), release := none, bank := nb } }
    let fetched : State := { waiting with events := s.events ++ [.prefetch nb], resident := [nb] }
    (s.dma.release = none →
      t =
        (if m ≤ d then waiting
        else if m ≤ d + r + 1 then
          { fetched with stallOut := true, dma := { pending := none, release := some (d + r + 1 - m), bank := nb } }
        else { fetched with stallOut := false, dma := { pending := none, release := none, bank := nb } }) ∧
      (s.stallOut = false → (t.stallOut = true ↔ d + 1 ≤ m ∧ m ≤ d + r + 1))) ∧
    (s.dma.release ≠ none → s.dma.pending = none →
      t =
        if m ≤ r then { fetched with dma := { pending := none, release := some (r - m), bank := nb } }
        else { fetched with stallOut := false, dma := { pending := none, release := none, bank := nb } })

/-- The invariants of the stall controller are kept by every step, and the release countdown starts in one place only: in
the tick that finds the trigger delay at zero, with the stall line asserted and the new bank prefetched; no operation and no
freeze starts it. The spec marks all this as derived (45_memory_mux_dma R337), decision D19. -/
def Obligations.EveryStepKeepsTheStallControllerSound : Prop :=
  (∀ s t : State, DmaSound s → step s = .next t → DmaSound t) ∧
  (∀ s t : State, step s = .next t → s.dma.release = none → t.dma.release ≠ none →
    (s.dma.pending = some 0 ∨ s.cfg.dmaTriggerDelay = 0) ∧
    t.dma.release = some s.cfg.dmaReleaseCount ∧ t.dma.pending = none ∧ t.stallOut = true ∧
    .prefetch t.dma.bank ∈ t.events ∧ t.resident = [t.dma.bank]) ∧
  (∀ (s t : State) (i : Instr), exec i s = .next t → s.dma.release = none → t.dma.release = none) ∧
  ∀ s : State, s.dma.release = none →
    (∀ rw, (freezeObserve rw s).dma.release = none) ∧ ((dmaTick s).dma.release ≠ none → s.dma.pending = some 0)

/-! ## Register operations -/

/-- The registers whose bank number is in the data byte: MAGICDESK, OCEAN, COMAL80, HUCKY, PROPHET, EASYFLASH.
Decisions D23, D25, D26, D27, D28 and D32. -/
def Obligations.DataBankRegisters : Prop :=
  ∀ (s : State) (al d : Byte),
    exec (.mdIo1W al d) s = .next
      (if d.toNat < 128 then mapped true (mapDefault s.cfg) (switched d.toNat (ctrlWritten d s))
       else mapped false modeOff (ctrlWritten d s)) ∧
    exec (.ocIo1W al d) s = .next (switched (d.toNat % 64) (ctrlWritten d s)) ∧
    exec (.coIo1W al d) s = .next
      (if d.toNat / 32 = 7 then mapped false modeOff (switched (d.toNat % 4) (ctrlWritten d s))
       else if d.toNat / 32 = 2 then mapped true modeM8k (switched (d.toNat % 4) (ctrlWritten d s))
       else mapped true modeM16k (switched (d.toNat % 4) (ctrlWritten d s))) ∧
    exec (.huIo1W al d) s = .next
      (if s.reg.carten = true then
        if bit d 3 = true then mapped false modeOff (switched (d.toNat % 8) (ctrlWritten d s))
        else switched (d.toNat % 8) (ctrlWritten d s)
       else s) ∧
    exec (.prIo2W al d) s = .next
      (if bit d 5 = true then mapped false modeOff (switched (d.toNat % 32) (ctrlWritten d s))
       else mapped true (mapDefault s.cfg) (switched (d.toNat % 32) (ctrlWritten d s))) ∧
    exec (.efIo1WBank al d) s = .next (switched (d.toNat % 64) s)

/-- The registers whose bank number is in the address: C64GS, DINAMIC and the ROM-low read of ZAXXON, whose ROM-low part is
4 KiB of bank 0 shown twice. Decisions D24, D30 and D36; the mask as a function of the variant is log 16. -/
def Obligations.AddressBankRegisters : Prop :=
  ∀ (s : State) (off : Offset) (al d : Byte),
    exec (.gsIo1W al d) s = .next (switched (al.toNat % 64) s) ∧
    exec (.gsIo1R al) s = .next (setBank 0 s) ∧
    exec (.diIo1R al) s = .next (switched (al.toNat % 16) s) ∧
    exec (.zxRomlR off) s = .next
      (switched (if off.toNat < 4096 then 0 else 1) { s with drive := (gatedRom s 0 .l off).or s.drive }) ∧
    (s.cfg.variant = .zaxxon → s.reg.carten = true → s.cfg.hasL = true →
      gatedRom s 0 .l off = some (memRead .rom (romIndex 0 .l (BitVec.ofNat 13 (off.toNat % 4096))) s))

/-- The accesses that set the mapping lines: SIMONS, FREEZEFRAME, the EASYFLASH control register with its mode law.
Decisions D29, D32 and D37. -/
def Obligations.MappingAccesses : Prop :=
  ∀ (s : State) (al d : Byte),
    exec (.sbIo1W al d) s = .next (linesSet ⟨true, true⟩ s) ∧ exec (.sbIo1R al) s = .next (linesSet ⟨false, true⟩ s) ∧
    exec (.ffIo1R al) s = .next (mapped true ⟨false, true⟩ s) ∧
    exec (.ffIo2R al) s = .next (mapped false ⟨false, false⟩ s) ∧
    exec (.efIo1WCtrl al d) s = .next
      (linesSet ⟨if bit d 2 = true then bit d 0 else s.cfg.efJumper, bit d 1⟩ (ctrlWritten d s))

/-- The qualifying reads of EPYX. Decision D31. -/
def Obligations.EpyxQualifyingReads : Prop :=
  ∀ (s : State) (off : Offset) (al : Byte),
    exec (.epRomlR off) s = .next
      (if s.reg.carten = true then rearmed { s with drive := (gatedRom s 0 .l off).or s.drive } else s) ∧
    exec (.epIo1R al) s = .next (rearmed (mapped true (mapDefault s.cfg) s))

/-- The control registers of ACTIONREPLAY and SUPERSNAPSHOT5. Decisions D38 and D39. -/
def Obligations.FreezerControlRegisters : Prop :=
  ∀ (s : State) (al d : Byte),
    exec (.arIo1W al d) s = .next
      (if s.reg.carten = true then
        let u := ramexpWritten (bit d 5) (switched (d.toNat / 8 % 4) (ctrlWritten d s))
        if bit d 2 = true then mapped false modeOff u
        else if s.cfg.arAtomic = true ∧ bit d 5 = true ∧ d.toNat % 4 = 2 then linesSet modeM16k u
        else linesSet ⟨bit d 0, !bit d 1⟩ u
       else s) ∧
    exec (.ssIo1W al d) s = .next
      (if s.reg.carten = true then
        let u := ramexpWritten (!bit d 1) (switched (d.toNat / 4 % 2 + d.toNat / 16 % 2 * 2) (ctrlWritten d s))
        if bit d 3 = true then mapped false modeOff u else linesSet ⟨!bit d 0, bit d 1⟩ u
       else s)

/-- The GMOD2 register: bank, chip-select with the ROM off the bus, then the EEPROM lines; the frame of every line change,
those that complete a command included: beside the EEPROM interface and the array it changes nothing, and it reports each byte
it changed once, with the new byte, in ascending order; what a line change does that is not a rising clock edge; and what a
rising edge does in each phase, but for the twelfth bit of a command and the sixteenth of its data, which complete it (their
effect on the interface and the array is in the frame statements below). Decisions D34, D35 and D48. -/
def Obligations.Gmod2RegisterAndLines : Prop :=
  ∀ (s : State) (al d : Byte) (cs clk di : Bool),
    exec (.gmIo1W al d) s = .next
      (eepLines (bit d 6) (bit d 5) (bit d 4)
        (if bit d 6 = true then mapped false modeOff (switched (d.toNat % 64) (ctrlWritten d s))
         else mapped true (mapDefault s.cfg) (switched (d.toNat % 64) (ctrlWritten d s)))) ∧
    (let t := eepLines cs clk di s
     t = { s with eepi := t.eepi, eep := t.eep, events := s.events ++ changedBytes s t } ∧
     ∀ i, 2048 ≤ i → memRead .eep i t = memRead .eep i s) ∧
    (s.eepi.cs = cs → ¬(cs = true ∧ s.eepi.clk = false ∧ clk = true) →
      eepLines cs clk di s = { s with eepi := { s.eepi with clk := clk, di := di } }) ∧
    (s.eepi.cs = true → cs = false →
      eepLines cs clk di s =
        { s with
          eepi := { s.eepi with
            cs := false, clk := clk, di := di, dOut := false, phase := .waitStart, sr := 0, n := 0, out := 0 } }) ∧
    (s.eepi.cs = false → cs = true → ¬(s.eepi.clk = false ∧ clk = true) →
      eepLines cs clk di s =
        { s with
          eepi := { s.eepi with cs := true, clk := clk, di := di, dOut := true, phase := .waitStart, sr := 0, n := 0 } }) ∧
    (s.eepi.cs = false → s.eepi.clk = false →
      eepLines true true di s =
        { s with
          eepi := { s.eepi with
            cs := true, clk := true, di := di, dOut := true, phase := if di = true then .cmd else .waitStart, sr := 0,
            n := 0 } }) ∧
    (s.eepi.cs = true → s.eepi.clk = false →
      let e := { s.eepi with clk := true, di := di }
      let edge := fun f : EepromIface => eepLines true true di s = { s with eepi := f }
      (e.phase = .waitStart → edge (if di = true then { e with phase := .cmd, sr := 0, n := 0 } else e)) ∧
      (e.phase = .cmd → e.n ≠ 11 → edge { e with sr := shiftedIn e.sr di, n := e.n + 1 }) ∧
      (e.phase = .dataIn ∨ e.phase = .dataInAll → e.n ≠ 15 → edge { e with sr := shiftedIn e.sr di, n := e.n + 1 }) ∧
      (e.phase = .readOut → e.n ≠ 15 → edge { e with dOut := e.out.getLsbD 15, out := e.out <<< 1, n := e.n + 1 }) ∧
      (e.phase = .readOut → e.n = 15 → s.cfg.variant = .gmod2 →
        edge { e with dOut := e.out.getLsbD 15, addr := e.addr + 1, out := wordAt s (e.addr + 1).toNat, n := 0 }) ∧
      (e.phase = .done → edge e))

/-! ## Flash -/

/-- One write to a ROM window of EASYFLASH, in each command state; none is accepted while CARTEN = 0 (20_memory R73, log
22). Decision D33. -/
def Obligations.FlashCommandMachine : Prop :=
  ∀ (s : State) (w : RomWindow) (off : Offset) (d : Byte),
    let goes := fun f => exec (flashInstr w off d) s = .next (setFlash w f s)
    (s.reg.carten = false ∨ hasWindow s.cfg w = false → exec (flashInstr w off d) s = .next s) ∧
    (s.reg.carten = true → hasWindow s.cfg w = true →
      (flashOf s w = .read →
        (atFlA off ∧ d = 0xAA → goes .u1) ∧ (¬(atFlA off ∧ d = 0xAA) → exec (flashInstr w off d) s = .next s)) ∧
      (flashOf s w = .u1 → (atFlB off ∧ d = 0x55 → goes .u2) ∧ (¬(atFlB off ∧ d = 0x55) → goes .read)) ∧
      (flashOf s w = .u2 →
        (atFlA off ∧ d = 0xA0 → goes .program) ∧ (atFlA off ∧ d = 0x80 → goes .eraseArm) ∧
        (¬(atFlA off ∧ (d = 0xA0 ∨ d = 0x80)) → goes .read)) ∧
      (flashOf s w = .program →
        ∃ t, exec (flashInstr w off d) s = .next t ∧ romAt t s.reg.bank w off = romAt s s.reg.bank w off &&& d ∧
          romOutside (fun b w' o => b = s.reg.bank ∧ w' = w ∧ o = off &&& offMask s.cfg w) s t ∧
          t = { setFlash w .read s with
            rom := t.rom
            events := s.events ++
              [.persistFlash s.reg.bank w (off &&& offMask s.cfg w) (romAt s s.reg.bank w off &&& d)] }) ∧
      (flashOf s w = .eraseArm → (atFlA off ∧ d = 0xAA → goes .e1) ∧ (¬(atFlA off ∧ d = 0xAA) → goes .read)) ∧
      (flashOf s w = .e1 → (atFlB off ∧ d = 0x55 → goes .e2) ∧ (¬(atFlB off ∧ d = 0x55) → goes .read)) ∧
      (flashOf s w = .e2 → d ≠ 0x30 → goes .read))

/-- A program command: the three-byte stream and one write, after which the read of that offset drives old AND value
and no other ROM byte has changed. The command stream is decision D33. -/
def Obligations.FlashProgramRoundTrip : Prop :=
  ∀ (s : State) (w : RomWindow) (o1 o2 o3 off : Offset) (v : Byte),
    flashOf s w = .read → hasWindow s.cfg w = true → s.reg.carten = true → atFlA o1 → atFlB o2 → atFlA o3 →
    ∃ t, execAll [flashInstr w o1 0xAA, flashInstr w o2 0x55, flashInstr w o3 0xA0, flashInstr w off v] s = .next t ∧
      t = { s with
        rom := t.rom
        events := s.events ++ [.persistFlash s.reg.bank w (off &&& offMask s.cfg w) (romAt s s.reg.bank w off &&& v)] } ∧
      romOutside (fun b w' o => b = s.reg.bank ∧ w' = w ∧ o = off &&& offMask s.cfg w) s t ∧
      Drives (flashRead w off) t (some (romAt s s.reg.bank w off &&& v))

/-- An erase command: the six-write stream, after which every byte of the addressed window in the banks of the sector
is 0xFF and no other ROM byte has changed. Decision D33. -/
def Obligations.SectorEraseFillsTheSector : Prop :=
  ∀ (s : State) (w : RomWindow) (o1 o2 o3 o4 o5 off : Offset),
    flashOf s w = .read → hasWindow s.cfg w = true → s.reg.carten = true → s.cfg.accepted → s.reg.bank.toNat < s.cfg.bankCount →
    1 ≤ s.cfg.flashSectorBanks → atFlA o1 → atFlB o2 → atFlA o3 → atFlA o4 → atFlB o5 →
    let first := s.reg.bank.toNat / s.cfg.flashSectorBanks * s.cfg.flashSectorBanks
    ∃ t, execAll [flashInstr w o1 0xAA, flashInstr w o2 0x55, flashInstr w o3 0x80, flashInstr w o4 0xAA,
        flashInstr w o5 0x55, flashInstr w off 0x30] s = .next t ∧
      t = { s with rom := t.rom, events := s.events ++ [.persistFlashSector w first] } ∧
      ∀ (b : Byte) (w' : RomWindow) (o : Offset),
        memRead .rom (romIndex b w' o) t =
          if w' = w ∧ first ≤ b.toNat ∧ b.toNat < first + s.cfg.flashSectorBanks ∧ b.toNat < s.cfg.bankCount then 0xFF
          else memRead .rom (romIndex b w' o) s

/-! ## EEPROM -/

/-- `EepStoreWord`: both bytes take the word, low byte first; each changed byte is reported once, an unchanged one
not. Decisions D35 and D48. -/
def Obligations.EepromStoreReportsChangedBytes : Prop :=
  ∀ (s : State) (a : Nat) (v : BitVec 16),
    let t := eepStoreWord a v s
    wordAt t a = v ∧ (∀ i, i ≠ 2 * a → i ≠ 2 * a + 1 → memRead .eep i t = memRead .eep i s) ∧
    t = { s with eep := t.eep, events := t.events } ∧
    t.events = s.events ++
      ((if memRead .eep (2 * a) s = BitVec.ofNat 8 v.toNat then []
        else [.persistEep (2 * a) (BitVec.ofNat 8 v.toNat)]) ++
       (if memRead .eep (2 * a + 1) s = BitVec.ofNat 8 (v.toNat / 256) then []
        else [.persistEep (2 * a + 1) (BitVec.ofNat 8 (v.toNat / 256))]))

/-- A WRITE frame sent bit by bit through the register: with the write-enable latch set it stores the word and changes no
other EEPROM byte, with the latch clear it changes none; the chip is ready after it, and the deselect that ends it keeps the
latch. Decisions D34 and D35. -/
def Obligations.EepromWriteFrameStoresTheWord : Prop :=
  ∀ (s : State) (a : BitVec 10) (v : BitVec 16),
    s.cfg.variant = .gmod2 → s.eepi.cs = false →
    ∃ t u, execAll (selectAndSend ([true, false, true] ++ bitsOf a ++ bitsOf v)) s = .next t ∧
      Drives (.gmIo1R 0) t (some 0x80) ∧ exec (.gmIo1W 0 0x00) t = .next u ∧
      (s.eepi.wen = true → wordAt u a.toNat = v) ∧
      (∀ i, s.eepi.wen = false ∨ i ≠ 2 * a.toNat ∧ i ≠ 2 * a.toNat + 1 → memRead .eep i u = memRead .eep i s) ∧
      u.eepi.wen = s.eepi.wen ∧ u.eepi.cs = false

/-- The other frames of the write class, by the two high address bits where the opcode is 00: EWEN sets and EWDS clears the
write-enable latch, ERASE fills one word with ones, ERAL every word, WRAL stores its data in every word. The last three need
the latch and keep it, and every frame leaves the chip ready. Decisions D34 and D35. -/
def Obligations.EepromCommandFrames : Prop :=
  ∀ (s : State) (a : BitVec 10) (v : BitVec 16),
    s.cfg.variant = .gmod2 → s.eepi.cs = false →
    let frame := fun (bits : List Bool) (wen : Bool) (byte : Nat → Byte) =>
      ∃ t, execAll (selectAndSend bits) s = .next t ∧ Drives (.gmIo1R 0) t (some 0x80) ∧ t.eepi.wen = wen ∧
        ∀ i, memRead .eep i t = byte i
    let old := fun i => memRead .eep i s
    let ifEnabled := fun (p : Nat → Prop) [DecidablePred p] (new : Nat → Byte) (i : Nat) =>
      if s.eepi.wen = true ∧ p i then new i else old i
    (a.toNat / 256 = 3 → frame ([true, false, false] ++ bitsOf a) true old) ∧
    (a.toNat / 256 = 0 → frame ([true, false, false] ++ bitsOf a) false old) ∧
    frame ([true, true, true] ++ bitsOf a) s.eepi.wen (ifEnabled (fun i => i / 2 = a.toNat) fun _ => 0xFF) ∧
    (a.toNat / 256 = 2 →
      frame ([true, false, false] ++ bitsOf a) s.eepi.wen (ifEnabled (fun i => i < 2048) fun _ => 0xFF)) ∧
    (a.toNat / 256 = 1 →
      frame ([true, false, false] ++ bitsOf a ++ bitsOf v) s.eepi.wen
        (ifEnabled (fun i => i < 2048) fun i => BitVec.ofNat 8 (if i % 2 = 0 then v.toNat else v.toNat / 256)))

/-- A READ frame: the dummy bit 0, then the bits of the word, most significant first, one for each further clock, and
on to the following words, wrapping after word 1023. Decisions D34 and D35. -/
def Obligations.EepromReadFrameReturnsTheWords : Prop :=
  ∀ (s : State) (a : BitVec 10) (k : Nat),
    s.cfg.variant = .gmod2 → s.eepi.cs = false →
    (∃ t, execAll (selectAndSend ([true, true, false] ++ bitsOf a)) s = .next t ∧ Drives (.gmIo1R 0) t (some 0x00)) ∧
    ∃ t, execAll (selectAndSend ([true, true, false] ++ bitsOf a ++ List.replicate (k + 1) false)) s = .next t ∧
      Drives (.gmIo1R 0) t
        (some (if (wordAt s ((a.toNat + k / 16) % 1024)).getMsbD (k % 16) = true then 0x80 else 0x00))

/-! ## Freeze control -/

/-- The button debounce: a pressed button counts up to its threshold, gives one edge there and no more; a released one
starts again; only a freezer has it, and reinitialisation keeps its count. The edge arms an idle machine; in an armed or a
frozen one it does nothing, so that a second press moves the count alone and leaves NMI and its countdown. Decision D15. -/
def Obligations.ButtonDebounceGivesOneEdge : Prop :=
  ∀ (s : State) (m : Nat),
    (isFreezer s.cfg.variant = false → buttonTick true s = s ∧ buttonTick false s = s) ∧
    (isFreezer s.cfg.variant = true → buttonTick false s = { s with frz := { s.frz with btnCnt := 0 } }) ∧
    (reinit s).frz.btnCnt = s.frz.btnCnt ∧
    (s.frz.fs ≠ .idle → buttonEdge s = s) ∧
    (s.cfg.buttonDebounceN ≤ s.frz.btnCnt → buttonTick true s = s) ∧
    (isFreezer s.cfg.variant = true → s.frz.btnCnt < s.cfg.buttonDebounceN →
      (buttonTick true)^[m] s =
        if s.frz.btnCnt + m < s.cfg.buttonDebounceN then { s with frz := { s.frz with btnCnt := s.frz.btnCnt + m } }
        else if s.frz.fs = .idle then
          { s with
            frz := { fs := .armed, btnCnt := s.cfg.buttonDebounceN, nmiCnt := s.cfg.nmiHold, wrCnt := 0 }
            nmiOut := true }
        else { s with frz := { s.frz with btnCnt := s.cfg.buttonDebounceN } })

/-- The NMI line of a freeze: asserted for `NMI_HOLD + 1` invocations, its expiry leaving the machine armed. The spec
marks it as derived (44_freezer R283), decision D16. -/
def Obligations.NmiTimeline : Prop :=
  ∀ (s : State) (m : Nat), isFreezer s.cfg.variant = true → s.frz.fs = .idle →
    nmiTick^[m] (buttonEdge s) =
      { buttonEdge s with
        nmiOut := decide (m ≤ s.cfg.nmiHold)
        frz := { (buttonEdge s).frz with nmiCnt := s.cfg.nmiHold - m } }

/-- `EnterActive`: the Ultimax mapping, the cartridge enabled, ROM and RAM mapped for each variant. Decision D18. -/
def Obligations.EnterActiveMapsTheCartridge : Prop :=
  ∀ s : State,
    let u := mapped true ⟨true, false⟩ { s with frz := { s.frz with fs := .active, nmiCnt := 0 }, nmiOut := false }
    (s.cfg.variant = .freezeframe → enterActive s = u) ∧
    (s.cfg.variant = .actionreplay → enterActive s = ramexpWritten false (ctrlWritten 0 (setBank 0 u))) ∧
    (s.cfg.variant = .supersnapshot5 → enterActive s = ramexpWritten true (ctrlWritten 0 (setBank 0 u)))

/-- An armed freezer counts consecutive guest writes: a read starts the count again, a video-half sample does not
count, the third write enters the frozen state, whatever the writes did themselves; short of it the observation changes the
count alone, and outside an armed freezer nothing. Only an auto-disable countdown that stands at 0 can take the mapping of
the frozen state away again, in the same invocation. Decisions D17 (conflict C2) and D31. -/
def Obligations.ArmedCountsConsecutiveWrites : Prop :=
  (∀ (s : State) (rw : Bool),
    (¬(isFreezer s.cfg.variant = true ∧ s.frz.fs = .armed) → freezeObserve rw s = s) ∧
    (isFreezer s.cfg.variant = true → s.frz.fs = .armed →
      freezeObserve true s = { s with frz := { s.frz with wrCnt := 0 } } ∧
      (s.frz.wrCnt ≠ 2 → freezeObserve false s = { s with frz := { s.frz with wrCnt := s.frz.wrCnt + 1 } }) ∧
      (s.frz.wrCnt = 2 → freezeObserve false s = enterActive { s with frz := { s.frz with wrCnt := 3 } }))) ∧
  ∀ (s t : State) (env : Env), Cycle s env t →
    isFreezer s.cfg.variant = true → s.frz.fs = .armed → ¬FiresReset s env →
    (env.p1.vid = true → t.frz.fs = .armed ∧ t.frz.wrCnt = s.frz.wrCnt) ∧
    (env.p1.vid = false → env.p1.rw = true → t.frz.fs = .armed ∧ t.frz.wrCnt = 0) ∧
    (env.p1.vid = false → env.p1.rw = false → s.frz.wrCnt ≠ 2 → t.frz.fs = .armed ∧ t.frz.wrCnt = s.frz.wrCnt + 1) ∧
    (env.p1.vid = false → env.p1.rw = false → s.frz.wrCnt = 2 →
      t.frz.fs = .active ∧ t.frz.wrCnt = 3 ∧ t.nmiOut = false ∧
      (s.cfg.autoDisableCycles = none ∨ s.capCnt ≠ 0 → t.map = ⟨true, false⟩ ∧ t.reg.carten = true) ∧
      (s.cfg.autoDisableCycles ≠ none → s.capCnt = 0 → t.map = modeOff ∧ t.reg.carten = false) ∧
      (s.cfg.variant ≠ .freezeframe →
        t.reg.bank = 0 ∧ t.reg.ctrl = 0 ∧ t.reg.ramexp = decide (s.cfg.variant = .supersnapshot5)))

/-- The freeze machine is entered by a debounced button edge only, moves on by the third write only, and is left by
the reset only. Decisions D15 and D17. -/
def Obligations.FreezeLeavesOnlyByReset : Prop :=
  ∀ (s t : State) (env : Env), Cycle s env t → ¬FiresReset s env →
    (s.frz.fs = .active → t.frz.fs = .active) ∧
    (s.frz.fs = .armed →
      t.frz.fs = .armed ∨ t.frz.fs = .active ∧ env.p1.vid = false ∧ env.p1.rw = false ∧ s.frz.wrCnt = 2) ∧
    (s.frz.fs = .idle →
      t.frz.fs = .idle ∨
        t.frz.fs = .armed ∧ isFreezer s.cfg.variant = true ∧ env.buttonIn = true ∧
          s.frz.btnCnt + 1 = s.cfg.buttonDebounceN)

/-! ## Auto-disable -/

/-- The capacitor: without auto-disable or with the cartridge off the bus its tick changes nothing, the countdown included;
with `c` left an enabled cartridge survives `c` ticks and the next one takes it off the bus. The spec marks the timeline as
derived (40_cycle R153), decision D31. -/
def Obligations.AutoDisableTimeline : Prop :=
  ∀ (s : State) (m : Nat),
    (s.cfg.autoDisableCycles = none ∨ s.reg.carten = false → capTick^[m] s = s) ∧
    (s.cfg.autoDisableCycles ≠ none → s.reg.carten = true →
      capTick^[m] s =
        if m ≤ s.capCnt then { s with capCnt := s.capCnt - m }
        else { mapped false modeOff s with capCnt := 0 })

/-! ## Reset -/

/-- The reset monitor, tick by tick, and over a pulse: a run of asserted invocations fires in the one that reaches the
threshold and in no other, a shorter run in none. What the two flags mean is decision D13. -/
def Obligations.ResetPulseFiresOnce : Prop :=
  ∀ s : State,
    resetTick false s = { s with rst := { cnt := 0, pressed := false, released := s.rst.pressed || s.rst.released } } ∧
    (s.rst.cnt + 1 < s.cfg.resetDebounceN →
      resetTick true s = { s with rst := { s.rst with cnt := s.rst.cnt + 1, released := false } }) ∧
    (s.rst.cnt + 1 = s.cfg.resetDebounceN →
      resetTick true s = reinit { s with rst := { cnt := s.cfg.resetDebounceN, pressed := true, released := false } }) ∧
    (s.cfg.resetDebounceN ≤ s.rst.cnt → resetTick true s = { s with rst := { s.rst with released := false } }) ∧
    ∀ (envs : List Env) (rest : List Input) (k : Nat) (t : State),
      s.active = true → s.inputs = envs.map .clkIrq ++ rest → (∀ e ∈ envs, e.resetIn = true) →
      1 ≤ s.cfg.resetDebounceN → s.rst.cnt = 0 → s.rst.pressed = false → k ≤ envs.length →
      core.run k s = .next t →
      t.rst.cnt = min k s.cfg.resetDebounceN ∧ (t.rst.pressed = true ↔ s.cfg.resetDebounceN ≤ k)

/-- `Reinit()`: the value of every element it writes, and the elements it does not write. Decision D14. -/
def Obligations.ReinitSetsAndKeeps : Prop :=
  ∀ s : State,
    reinit s =
      { s with
        reg := { bank := 0, ctrl := 0, ramexp := decide (s.cfg.variant = .supersnapshot5), carten := true }
        map := mapDefault s.cfg
        frz := { fs := .idle, btnCnt := s.frz.btnCnt, nmiCnt := 0, wrCnt := 0 }
        nmiOut := false
        dma := { pending := none, release := none, bank := 0 }
        stallOut := false
        capCnt := s.cfg.autoDisableCycles.getD 0
        flash := ⟨.read, .read⟩
        eepi :=
          { cs := false, clk := false, di := false, dOut := false, wen := s.eepi.wen, phase := .waitStart, sr := 0, n := 0,
            addr := 0, out := 0 }
        events := if s.cfg.fitsInCache = true then s.events else s.events ++ [.prefetch 0]
        resident := if s.cfg.fitsInCache = true then allBanks s.cfg else [0] }

/-- Reset wins: in the firing invocation nothing the operation, freeze control or the other ticks did to the protocol
state is left; the byte driven and the stores are what they would be without the reset. Decisions D12 and D14. -/
def Obligations.ResetWins : Prop :=
  ∀ (s t : State) (env : Env) (rest : List Input),
    s.active = true → s.inputs = .clkIrq env :: rest → FiresReset s env → step s = .next t →
    t.reg = { bank := 0, ctrl := 0, ramexp := decide (s.cfg.variant = .supersnapshot5), carten := true } ∧
    t.map = mapDefault s.cfg ∧ t.nmiOut = false ∧ t.stallOut = false ∧
    t.dma = { pending := none, release := none, bank := 0 } ∧
    t.frz.fs = .idle ∧ t.frz.wrCnt = 0 ∧ t.frz.nmiCnt = 0 ∧ t.capCnt = s.cfg.autoDisableCycles.getD 0 ∧
    t.flash = ⟨.read, .read⟩ ∧ t.eepi = { EepromIface.initial with wen := t.eepi.wen } ∧
    t.resident = (if s.cfg.fitsInCache = true then allBanks s.cfg else [0]) ∧
    t.rst = { cnt := s.cfg.resetDebounceN, pressed := true, released := false } ∧
    ∃ u, step { s with inputs := .clkIrq { env with resetIn := false } :: rest } = .next u ∧
      t.drive = u.drive ∧ t.rom = u.rom ∧ t.ram = u.ram ∧ t.eep = u.eep ∧ t.shadow = u.shadow ∧
      t.eepi.wen = u.eepi.wen ∧ t.frz.btnCnt = u.frz.btnCnt

/-! ## Sessions -/

/-- What activation and deactivation do with a session: the load errors, the two checks, the new session. Decisions
D45 and D46, the machine without a session log 9 and 10. -/
def Obligations.ActivationOutcome : Prop :=
  ∀ (s : State) (rest : List Input),
    (∀ k, s.inputs = .activate (.failure k) :: rest →
      ∃ t, step s = .next t ∧ NoSession t ∧ t.loadError = some k ∧ t.inputs = rest) ∧
    (∀ cfg rom eep, s.inputs = .activate (.ok cfg rom eep) :: rest →
      ∃ t, step s = .next t ∧ t.inputs = rest ∧
        (cfg.bankCount = 0 ∨ cfg.hasL = false ∧ cfg.hasH = false →
          NoSession t ∧ t.loadError = some .emptyImage) ∧
        (¬(cfg.bankCount = 0 ∨ cfg.hasL = false ∧ cfg.hasH = false) → 256 < cfg.bankCount →
          NoSession t ∧ t.loadError = some .tooManyBanks) ∧
        (cfg.accepted → t.active = true ∧ t.cfg = cfg ∧ t.loadError = none)) ∧
    (s.inputs = .deactivate :: rest →
      ∃ t, step s = .next t ∧ NoSession t ∧ t.loadError = none ∧ t.inputs = rest)

/-- The values a session starts from. Decisions D10, D20 and D46. -/
def Obligations.ActivationValues : Prop :=
  ∀ (s : State) (rest : List Input) (cfg : Cfg) (rom eep : List Host.Cell),
    s.inputs = .activate (.ok cfg rom eep) :: rest → cfg.accepted →
    ∃ t, step s = .next t ∧
      t.reg = { bank := 0, ctrl := 0, ramexp := decide (cfg.variant = .supersnapshot5), carten := true } ∧
      t.map = (if cfg.variant = .ocean ∧ 64 ≤ cfg.bankCount then ⟨false, cfg.mapHdr.x⟩ else cfg.mapHdr) ∧
      t.nmiOut = false ∧ t.stallOut = false ∧ t.drive = none ∧
      t.dma = { pending := none, release := none, bank := 0 } ∧
      t.rst = { cnt := 0, pressed := false, released := false } ∧
      t.frz = { fs := .idle, btnCnt := 0, nmiCnt := 0, wrCnt := 0 } ∧
      t.capCnt = cfg.autoDisableCycles.getD 0 ∧ t.flash = ⟨.read, .read⟩ ∧ t.eepi = EepromIface.initial ∧
      t.resident = (if cfg.fitsInCache = true then allBanks cfg else [0]) ∧
      t.events = (if cfg.fitsInCache = true then (allBanks cfg).map .prefetch else [.prefetch 0])

/-- The contents the loader hands over are what a fresh session reads; a byte nothing covers is a free value in ROM,
RAM and shadow, and 0xFF in the EEPROM (log 4 to 7). That the later of two bytes the loader gives for one index holds is the
model's choice (log 17). Decision D44. -/
def Obligations.LoadedContentsAreReadBack : Prop :=
  ∀ (s t : State) (rest : List Input) (cfg : Cfg) (rom eep : List Host.Cell),
    s.inputs = .activate (.ok cfg rom eep) :: rest → cfg.accepted → step s = .next t →
    (∀ a < romSize cfg, memRead .rom a t = (lastAt a rom).getD (Config.romUncovered t.sessionNo a)) ∧
    (∀ a < 2 * eepWords cfg, memRead .eep a t = (lastAt a eep).getD 0xFF) ∧
    (∀ a, memRead .ram a t = Config.ramAtActivation t.sessionNo a) ∧
    ∀ a, memRead .shadow a t = Config.shadowAtActivation t.sessionNo a

/-- The state after reset is a fresh session: every element the spec gives a value has it, with a configuration that
activation accepts and the boot requirements and deadlines admit (the configuration itself is the model's, log 3).
Decision D46. -/
def Obligations.ResetIsAFreshSession : Prop :=
  (∃ s r, State.reset = { activate r s with sessionNo := 0 } ∧ s.inputs = [] ∧ r = .ok State.reset.cfg [] []) ∧
  State.reset.cfg.accepted ∧ State.reset.cfg.Prepared ∧ State.reset.cfg.Timely

/-! ## The invariant -/

/-- The invariant holds after reset. The configuration of the reset state is log 3. -/
def Obligations.InvariantHoldsAtReset : Prop := Inv State.reset

/-- Every step keeps the invariant: banks and store indices in range, stores canonical, the counters within their
bounds, the stall controller, resident set, reset monitor, freeze machine and EEPROM interface sound, foreign state at
rest. The bounds rest on decisions D11, D13, D14, D19, D20, D31 and D35. -/
def Obligations.EveryStepKeepsTheInvariant : Prop := ∀ s t : State, Inv s → step s = .next t → Inv t
end

