-- ==== Sys2Proof/Laws/Decode.lean ====
section
/-!
SUPPORT. The packing of samples and dispatch words is undone by the field reads, and the tag numbering by its inverse.
-/

namespace Sys2Proof

theorem Variant.ofTag_tag (v : Variant) : Variant.ofTag v.tag = v := by cases v <;> rfl

theorem Variant.tag_ofTag (t : BitVec 4) : (Variant.ofTag t).tag = t := by revert t; decide

/-- The high part of a word built by `++`. -/
theorem extract_append_high {n m : Nat} (x : BitVec n) (y : BitVec m) : (x ++ y).extractLsb' m n = x := by
  rw [BitVec.extractLsb'_append_eq_left]

/-- The low part of a word built by `++`. -/
theorem extract_append_low {n m : Nat} (x : BitVec n) (y : BitVec m) : (x ++ y).extractLsb' 0 m = y := by
  rw [BitVec.extractLsb'_append_eq_right]

theorem offHi_append (hi : BitVec 5) (lo : Byte) : offHi (hi ++ lo) = hi := extract_append_high hi lo

theorem offLo_append (hi : BitVec 5) (lo : Byte) : offLo (hi ++ lo) = lo := extract_append_low hi lo

theorem offHi_append_offLo (off : Offset) : offHi off ++ offLo off = off := by
  apply BitVec.eq_of_getLsbD_eq
  intro i hi
  simp only [offHi, offLo, BitVec.getLsbD_append, BitVec.getLsbD_extractLsb']
  by_cases h : i < 8
  · simp [h]
  · have h1 : i - 8 < 5 := by omega
    have h2 : 8 + (i - 8) = i := by omega
    simp [h, h1, h2]

/-- A field that starts in the high part, counted from there. -/
theorem extract_append_skip {n m : Nat} (x : BitVec n) (y : BitVec m) (k l : Nat) :
    (x ++ y).extractLsb' (m + k) l = x.extractLsb' k l := by
  apply BitVec.eq_of_getLsbD_eq
  intro i hi
  have h : ¬m + k + i < m := by omega
  have h' : m + k + i - m = k + i := by omega
  simp only [BitVec.getLsbD_extractLsb', BitVec.getLsbD_append, h, h', if_false]

/-- A bit of the high part, counted from there. -/
theorem bit_append_skip {n m : Nat} (x : BitVec n) (y : BitVec m) (k : Nat) :
    (x ++ y).getLsbD (m + k) = x.getLsbD k := by
  have h : ¬m + k < m := by omega
  have h' : m + k - m = k := by omega
  simp only [BitVec.getLsbD_append, h, h', if_false]

/-- A flag in the low end of a word. -/
theorem bit_append_flag {n : Nat} (x : BitVec n) (b : Bool) : (x ++ BitVec.ofBool b).getLsbD 0 = b := by
  rw [BitVec.getLsbD_append]
  simp

theorem BusCycleSample.ofWord_toWord (S : BusCycleSample) : BusCycleSample.ofWord S.toWord = S := by
  obtain ⟨lo, hi, roml, romh, io1, io2, vid, ba, rw, data⟩ := S
  simp only [BusCycleSample.ofWord, BusCycleSample.toWord, BusCycleSample.mk.injEq]
  refine ⟨extract_append_low _ lo, (extract_append_skip _ lo 0 5).trans (extract_append_low _ hi),
    (bit_append_skip _ lo 5).trans ((bit_append_skip _ hi 0).trans (bit_append_flag _ roml)),
    (bit_append_skip _ lo 6).trans ((bit_append_skip _ hi 1).trans
      ((bit_append_skip _ (BitVec.ofBool roml) 0).trans (bit_append_flag _ romh))),
    (bit_append_skip _ lo 7).trans ((bit_append_skip _ hi 2).trans ((bit_append_skip _ (BitVec.ofBool roml) 1).trans
      ((bit_append_skip _ (BitVec.ofBool romh) 0).trans (bit_append_flag _ io1)))),
    (bit_append_skip _ lo 8).trans ((bit_append_skip _ hi 3).trans ((bit_append_skip _ (BitVec.ofBool roml) 2).trans
      ((bit_append_skip _ (BitVec.ofBool romh) 1).trans ((bit_append_skip _ (BitVec.ofBool io1) 0).trans
      (bit_append_flag _ io2))))),
    (bit_append_skip _ lo 9).trans ((bit_append_skip _ hi 4).trans ((bit_append_skip _ (BitVec.ofBool roml) 3).trans
      ((bit_append_skip _ (BitVec.ofBool romh) 2).trans ((bit_append_skip _ (BitVec.ofBool io1) 1).trans
      ((bit_append_skip _ (BitVec.ofBool io2) 0).trans (bit_append_flag _ vid)))))),
    (bit_append_skip _ lo 10).trans ((bit_append_skip _ hi 5).trans ((bit_append_skip _ (BitVec.ofBool roml) 4).trans
      ((bit_append_skip _ (BitVec.ofBool romh) 3).trans ((bit_append_skip _ (BitVec.ofBool io1) 2).trans
      ((bit_append_skip _ (BitVec.ofBool io2) 1).trans ((bit_append_skip _ (BitVec.ofBool vid) 0).trans
      (bit_append_flag _ ba))))))),
    (bit_append_skip _ lo 11).trans ((bit_append_skip _ hi 6).trans ((bit_append_skip _ (BitVec.ofBool roml) 5).trans
      ((bit_append_skip _ (BitVec.ofBool romh) 4).trans ((bit_append_skip _ (BitVec.ofBool io1) 3).trans
      ((bit_append_skip _ (BitVec.ofBool io2) 2).trans ((bit_append_skip _ (BitVec.ofBool vid) 1).trans
      ((bit_append_skip _ (BitVec.ofBool ba) 0).trans (bit_append_flag data rw)))))))),
    (extract_append_skip _ lo 12 8).trans ((extract_append_skip _ hi 7 8).trans
      ((extract_append_skip _ (BitVec.ofBool roml) 6 8).trans ((extract_append_skip _ (BitVec.ofBool romh) 5 8).trans
      ((extract_append_skip _ (BitVec.ofBool io1) 4 8).trans ((extract_append_skip _ (BitVec.ofBool io2) 3 8).trans
      ((extract_append_skip _ (BitVec.ofBool vid) 2 8).trans ((extract_append_skip _ (BitVec.ofBool ba) 1 8).trans
      ((extract_append_skip data (BitVec.ofBool rw) 0 8).trans BitVec.extractLsb'_eq_self))))))))⟩

/-- Two adjacent fields of a word, joined. -/
theorem extract_join {n : Nat} (x : BitVec n) (k m l : Nat) :
    x.extractLsb' (k + m) l ++ x.extractLsb' k m = x.extractLsb' k (l + m) := by
  apply BitVec.eq_of_getLsbD_eq
  intro i hi
  simp only [BitVec.getLsbD_append, BitVec.getLsbD_extractLsb']
  by_cases h : i < m
  · simp [h, hi]
  · have h1 : i - m < l := by omega
    have h2 : k + m + (i - m) = k + i := by omega
    simp [h, h1, h2, hi]

theorem extract_flag {n : Nat} (x : BitVec n) (k : Nat) : BitVec.ofBool (x.getLsbD k) = x.extractLsb' k 1 := by
  apply BitVec.eq_of_getLsbD_eq
  intro i hi
  have : i = 0 := by omega
  subst this
  simp

theorem BusCycleSample.toWord_ofWord (w : SampleWord) : (BusCycleSample.ofWord w).toWord = w := by
  simp only [BusCycleSample.ofWord, BusCycleSample.toWord, extract_flag]
  rw [extract_join w 19 1 8, extract_join w 18 1 9, extract_join w 17 1 10, extract_join w 16 1 11,
    extract_join w 15 1 12, extract_join w 14 1 13, extract_join w 13 1 14, extract_join w 8 5 15,
    extract_join w 0 8 20]
  exact BitVec.extractLsb'_eq_self

/-- Every dispatch word is the packing of its variant and its sample. -/
theorem dispatchWord_surjective (dw : DispatchWord) : dispatchWord (wordVariant dw) (wordSample dw) = dw := by
  unfold dispatchWord wordVariant wordSample
  rw [Variant.tag_ofTag, BusCycleSample.toWord_ofWord]
  exact (extract_join dw 0 28 4).trans BitVec.extractLsb'_eq_self

@[simp] theorem wordVariant_dispatchWord (v : Variant) (S : BusCycleSample) : wordVariant (dispatchWord v S) = v := by
  unfold wordVariant dispatchWord
  rw [extract_append_high, Variant.ofTag_tag]

@[simp] theorem wordSample_dispatchWord (v : Variant) (S : BusCycleSample) : wordSample (dispatchWord v S) = S := by
  unfold wordSample dispatchWord
  rw [extract_append_low, BusCycleSample.ofWord_toWord]

/-- Decoding a packed dispatch word is decoding the sample in that variant's session. -/
@[simp] theorem decode_dispatchWord (v : Variant) (S : BusCycleSample) : decode (dispatchWord v S) = decodeSample v S := by
  rw [decode, wordVariant_dispatchWord, wordSample_dispatchWord]

end Sys2Proof
end

