-- ==== Sys2Proof/Laws/State.lean ====
section
/-!
SUPPORT. One lemma for each field and each plain update of the state, true by unfolding. Later proofs cite these by `simp`
and never unfold an update.
-/

namespace Sys2Proof.Machine

variable (s : State)

/-! ### `emit` -/

@[simp] theorem emit_active (e : OutEvent) : (emit e s).active = s.active := rfl
@[simp] theorem emit_sessionNo (e : OutEvent) : (emit e s).sessionNo = s.sessionNo := rfl
@[simp] theorem emit_cfg (e : OutEvent) : (emit e s).cfg = s.cfg := rfl
@[simp] theorem emit_inputs (e : OutEvent) : (emit e s).inputs = s.inputs := rfl
@[simp] theorem emit_loadError (e : OutEvent) : (emit e s).loadError = s.loadError := rfl
@[simp] theorem emit_reg (e : OutEvent) : (emit e s).reg = s.reg := rfl
@[simp] theorem emit_map (e : OutEvent) : (emit e s).map = s.map := rfl
@[simp] theorem emit_nmiOut (e : OutEvent) : (emit e s).nmiOut = s.nmiOut := rfl
@[simp] theorem emit_stallOut (e : OutEvent) : (emit e s).stallOut = s.stallOut := rfl
@[simp] theorem emit_drive (e : OutEvent) : (emit e s).drive = s.drive := rfl
@[simp] theorem emit_events (e : OutEvent) : (emit e s).events = s.events ++ [e] := rfl
@[simp] theorem emit_dma (e : OutEvent) : (emit e s).dma = s.dma := rfl
@[simp] theorem emit_rst (e : OutEvent) : (emit e s).rst = s.rst := rfl
@[simp] theorem emit_frz (e : OutEvent) : (emit e s).frz = s.frz := rfl
@[simp] theorem emit_capCnt (e : OutEvent) : (emit e s).capCnt = s.capCnt := rfl
@[simp] theorem emit_flash (e : OutEvent) : (emit e s).flash = s.flash := rfl
@[simp] theorem emit_eepi (e : OutEvent) : (emit e s).eepi = s.eepi := rfl
@[simp] theorem emit_rom (e : OutEvent) : (emit e s).rom = s.rom := rfl
@[simp] theorem emit_ram (e : OutEvent) : (emit e s).ram = s.ram := rfl
@[simp] theorem emit_eep (e : OutEvent) : (emit e s).eep = s.eep := rfl
@[simp] theorem emit_shadow (e : OutEvent) : (emit e s).shadow = s.shadow := rfl
@[simp] theorem emit_resident (e : OutEvent) : (emit e s).resident = s.resident := rfl

/-! ### `driveByte` -/

@[simp] theorem driveByte_active (b : Byte) : (driveByte b s).active = s.active := rfl
@[simp] theorem driveByte_sessionNo (b : Byte) : (driveByte b s).sessionNo = s.sessionNo := rfl
@[simp] theorem driveByte_cfg (b : Byte) : (driveByte b s).cfg = s.cfg := rfl
@[simp] theorem driveByte_inputs (b : Byte) : (driveByte b s).inputs = s.inputs := rfl
@[simp] theorem driveByte_loadError (b : Byte) : (driveByte b s).loadError = s.loadError := rfl
@[simp] theorem driveByte_reg (b : Byte) : (driveByte b s).reg = s.reg := rfl
@[simp] theorem driveByte_map (b : Byte) : (driveByte b s).map = s.map := rfl
@[simp] theorem driveByte_nmiOut (b : Byte) : (driveByte b s).nmiOut = s.nmiOut := rfl
@[simp] theorem driveByte_stallOut (b : Byte) : (driveByte b s).stallOut = s.stallOut := rfl
@[simp] theorem driveByte_drive (b : Byte) : (driveByte b s).drive = some b := rfl
@[simp] theorem driveByte_events (b : Byte) : (driveByte b s).events = s.events := rfl
@[simp] theorem driveByte_dma (b : Byte) : (driveByte b s).dma = s.dma := rfl
@[simp] theorem driveByte_rst (b : Byte) : (driveByte b s).rst = s.rst := rfl
@[simp] theorem driveByte_frz (b : Byte) : (driveByte b s).frz = s.frz := rfl
@[simp] theorem driveByte_capCnt (b : Byte) : (driveByte b s).capCnt = s.capCnt := rfl
@[simp] theorem driveByte_flash (b : Byte) : (driveByte b s).flash = s.flash := rfl
@[simp] theorem driveByte_eepi (b : Byte) : (driveByte b s).eepi = s.eepi := rfl
@[simp] theorem driveByte_rom (b : Byte) : (driveByte b s).rom = s.rom := rfl
@[simp] theorem driveByte_ram (b : Byte) : (driveByte b s).ram = s.ram := rfl
@[simp] theorem driveByte_eep (b : Byte) : (driveByte b s).eep = s.eep := rfl
@[simp] theorem driveByte_shadow (b : Byte) : (driveByte b s).shadow = s.shadow := rfl
@[simp] theorem driveByte_resident (b : Byte) : (driveByte b s).resident = s.resident := rfl

/-! ### `setMap` -/

@[simp] theorem setMap_active (m : MapMode) : (setMap m s).active = s.active := rfl
@[simp] theorem setMap_sessionNo (m : MapMode) : (setMap m s).sessionNo = s.sessionNo := rfl
@[simp] theorem setMap_cfg (m : MapMode) : (setMap m s).cfg = s.cfg := rfl
@[simp] theorem setMap_inputs (m : MapMode) : (setMap m s).inputs = s.inputs := rfl
@[simp] theorem setMap_loadError (m : MapMode) : (setMap m s).loadError = s.loadError := rfl
@[simp] theorem setMap_reg (m : MapMode) : (setMap m s).reg = s.reg := rfl
@[simp] theorem setMap_map (m : MapMode) : (setMap m s).map = m := rfl
@[simp] theorem setMap_nmiOut (m : MapMode) : (setMap m s).nmiOut = s.nmiOut := rfl
@[simp] theorem setMap_stallOut (m : MapMode) : (setMap m s).stallOut = s.stallOut := rfl
@[simp] theorem setMap_drive (m : MapMode) : (setMap m s).drive = s.drive := rfl
@[simp] theorem setMap_events (m : MapMode) : (setMap m s).events = s.events := rfl
@[simp] theorem setMap_dma (m : MapMode) : (setMap m s).dma = s.dma := rfl
@[simp] theorem setMap_rst (m : MapMode) : (setMap m s).rst = s.rst := rfl
@[simp] theorem setMap_frz (m : MapMode) : (setMap m s).frz = s.frz := rfl
@[simp] theorem setMap_capCnt (m : MapMode) : (setMap m s).capCnt = s.capCnt := rfl
@[simp] theorem setMap_flash (m : MapMode) : (setMap m s).flash = s.flash := rfl
@[simp] theorem setMap_eepi (m : MapMode) : (setMap m s).eepi = s.eepi := rfl
@[simp] theorem setMap_rom (m : MapMode) : (setMap m s).rom = s.rom := rfl
@[simp] theorem setMap_ram (m : MapMode) : (setMap m s).ram = s.ram := rfl
@[simp] theorem setMap_eep (m : MapMode) : (setMap m s).eep = s.eep := rfl
@[simp] theorem setMap_shadow (m : MapMode) : (setMap m s).shadow = s.shadow := rfl
@[simp] theorem setMap_resident (m : MapMode) : (setMap m s).resident = s.resident := rfl

/-! ### `setCtrl` -/

@[simp] theorem setCtrl_active (d : Byte) : (setCtrl d s).active = s.active := rfl
@[simp] theorem setCtrl_sessionNo (d : Byte) : (setCtrl d s).sessionNo = s.sessionNo := rfl
@[simp] theorem setCtrl_cfg (d : Byte) : (setCtrl d s).cfg = s.cfg := rfl
@[simp] theorem setCtrl_inputs (d : Byte) : (setCtrl d s).inputs = s.inputs := rfl
@[simp] theorem setCtrl_loadError (d : Byte) : (setCtrl d s).loadError = s.loadError := rfl
@[simp] theorem setCtrl_reg (d : Byte) : (setCtrl d s).reg = { s.reg with ctrl := d } := rfl
@[simp] theorem setCtrl_map (d : Byte) : (setCtrl d s).map = s.map := rfl
@[simp] theorem setCtrl_nmiOut (d : Byte) : (setCtrl d s).nmiOut = s.nmiOut := rfl
@[simp] theorem setCtrl_stallOut (d : Byte) : (setCtrl d s).stallOut = s.stallOut := rfl
@[simp] theorem setCtrl_drive (d : Byte) : (setCtrl d s).drive = s.drive := rfl
@[simp] theorem setCtrl_events (d : Byte) : (setCtrl d s).events = s.events := rfl
@[simp] theorem setCtrl_dma (d : Byte) : (setCtrl d s).dma = s.dma := rfl
@[simp] theorem setCtrl_rst (d : Byte) : (setCtrl d s).rst = s.rst := rfl
@[simp] theorem setCtrl_frz (d : Byte) : (setCtrl d s).frz = s.frz := rfl
@[simp] theorem setCtrl_capCnt (d : Byte) : (setCtrl d s).capCnt = s.capCnt := rfl
@[simp] theorem setCtrl_flash (d : Byte) : (setCtrl d s).flash = s.flash := rfl
@[simp] theorem setCtrl_eepi (d : Byte) : (setCtrl d s).eepi = s.eepi := rfl
@[simp] theorem setCtrl_rom (d : Byte) : (setCtrl d s).rom = s.rom := rfl
@[simp] theorem setCtrl_ram (d : Byte) : (setCtrl d s).ram = s.ram := rfl
@[simp] theorem setCtrl_eep (d : Byte) : (setCtrl d s).eep = s.eep := rfl
@[simp] theorem setCtrl_shadow (d : Byte) : (setCtrl d s).shadow = s.shadow := rfl
@[simp] theorem setCtrl_resident (d : Byte) : (setCtrl d s).resident = s.resident := rfl

/-! ### `setRamexp` -/

@[simp] theorem setRamexp_active (b : Bool) : (setRamexp b s).active = s.active := rfl
@[simp] theorem setRamexp_sessionNo (b : Bool) : (setRamexp b s).sessionNo = s.sessionNo := rfl
@[simp] theorem setRamexp_cfg (b : Bool) : (setRamexp b s).cfg = s.cfg := rfl
@[simp] theorem setRamexp_inputs (b : Bool) : (setRamexp b s).inputs = s.inputs := rfl
@[simp] theorem setRamexp_loadError (b : Bool) : (setRamexp b s).loadError = s.loadError := rfl
@[simp] theorem setRamexp_reg (b : Bool) : (setRamexp b s).reg = { s.reg with ramexp := b } := rfl
@[simp] theorem setRamexp_map (b : Bool) : (setRamexp b s).map = s.map := rfl
@[simp] theorem setRamexp_nmiOut (b : Bool) : (setRamexp b s).nmiOut = s.nmiOut := rfl
@[simp] theorem setRamexp_stallOut (b : Bool) : (setRamexp b s).stallOut = s.stallOut := rfl
@[simp] theorem setRamexp_drive (b : Bool) : (setRamexp b s).drive = s.drive := rfl
@[simp] theorem setRamexp_events (b : Bool) : (setRamexp b s).events = s.events := rfl
@[simp] theorem setRamexp_dma (b : Bool) : (setRamexp b s).dma = s.dma := rfl
@[simp] theorem setRamexp_rst (b : Bool) : (setRamexp b s).rst = s.rst := rfl
@[simp] theorem setRamexp_frz (b : Bool) : (setRamexp b s).frz = s.frz := rfl
@[simp] theorem setRamexp_capCnt (b : Bool) : (setRamexp b s).capCnt = s.capCnt := rfl
@[simp] theorem setRamexp_flash (b : Bool) : (setRamexp b s).flash = s.flash := rfl
@[simp] theorem setRamexp_eepi (b : Bool) : (setRamexp b s).eepi = s.eepi := rfl
@[simp] theorem setRamexp_rom (b : Bool) : (setRamexp b s).rom = s.rom := rfl
@[simp] theorem setRamexp_ram (b : Bool) : (setRamexp b s).ram = s.ram := rfl
@[simp] theorem setRamexp_eep (b : Bool) : (setRamexp b s).eep = s.eep := rfl
@[simp] theorem setRamexp_shadow (b : Bool) : (setRamexp b s).shadow = s.shadow := rfl
@[simp] theorem setRamexp_resident (b : Bool) : (setRamexp b s).resident = s.resident := rfl

/-! ### `setCarten` -/

@[simp] theorem setCarten_active (b : Bool) : (setCarten b s).active = s.active := rfl
@[simp] theorem setCarten_sessionNo (b : Bool) : (setCarten b s).sessionNo = s.sessionNo := rfl
@[simp] theorem setCarten_cfg (b : Bool) : (setCarten b s).cfg = s.cfg := rfl
@[simp] theorem setCarten_inputs (b : Bool) : (setCarten b s).inputs = s.inputs := rfl
@[simp] theorem setCarten_loadError (b : Bool) : (setCarten b s).loadError = s.loadError := rfl
@[simp] theorem setCarten_reg (b : Bool) : (setCarten b s).reg = { s.reg with carten := b } := rfl
@[simp] theorem setCarten_map (b : Bool) : (setCarten b s).map = s.map := rfl
@[simp] theorem setCarten_nmiOut (b : Bool) : (setCarten b s).nmiOut = s.nmiOut := rfl
@[simp] theorem setCarten_stallOut (b : Bool) : (setCarten b s).stallOut = s.stallOut := rfl
@[simp] theorem setCarten_drive (b : Bool) : (setCarten b s).drive = s.drive := rfl
@[simp] theorem setCarten_events (b : Bool) : (setCarten b s).events = s.events := rfl
@[simp] theorem setCarten_dma (b : Bool) : (setCarten b s).dma = s.dma := rfl
@[simp] theorem setCarten_rst (b : Bool) : (setCarten b s).rst = s.rst := rfl
@[simp] theorem setCarten_frz (b : Bool) : (setCarten b s).frz = s.frz := rfl
@[simp] theorem setCarten_capCnt (b : Bool) : (setCarten b s).capCnt = s.capCnt := rfl
@[simp] theorem setCarten_flash (b : Bool) : (setCarten b s).flash = s.flash := rfl
@[simp] theorem setCarten_eepi (b : Bool) : (setCarten b s).eepi = s.eepi := rfl
@[simp] theorem setCarten_rom (b : Bool) : (setCarten b s).rom = s.rom := rfl
@[simp] theorem setCarten_ram (b : Bool) : (setCarten b s).ram = s.ram := rfl
@[simp] theorem setCarten_eep (b : Bool) : (setCarten b s).eep = s.eep := rfl
@[simp] theorem setCarten_shadow (b : Bool) : (setCarten b s).shadow = s.shadow := rfl
@[simp] theorem setCarten_resident (b : Bool) : (setCarten b s).resident = s.resident := rfl

/-! ### `enableWith` -/

@[simp] theorem enableWith_active (m : MapMode) : (enableWith m s).active = s.active := rfl
@[simp] theorem enableWith_sessionNo (m : MapMode) : (enableWith m s).sessionNo = s.sessionNo := rfl
@[simp] theorem enableWith_cfg (m : MapMode) : (enableWith m s).cfg = s.cfg := rfl
@[simp] theorem enableWith_inputs (m : MapMode) : (enableWith m s).inputs = s.inputs := rfl
@[simp] theorem enableWith_loadError (m : MapMode) : (enableWith m s).loadError = s.loadError := rfl
@[simp] theorem enableWith_reg (m : MapMode) : (enableWith m s).reg = { s.reg with carten := true } := rfl
@[simp] theorem enableWith_map (m : MapMode) : (enableWith m s).map = m := rfl
@[simp] theorem enableWith_nmiOut (m : MapMode) : (enableWith m s).nmiOut = s.nmiOut := rfl
@[simp] theorem enableWith_stallOut (m : MapMode) : (enableWith m s).stallOut = s.stallOut := rfl
@[simp] theorem enableWith_drive (m : MapMode) : (enableWith m s).drive = s.drive := rfl
@[simp] theorem enableWith_events (m : MapMode) : (enableWith m s).events = s.events := rfl
@[simp] theorem enableWith_dma (m : MapMode) : (enableWith m s).dma = s.dma := rfl
@[simp] theorem enableWith_rst (m : MapMode) : (enableWith m s).rst = s.rst := rfl
@[simp] theorem enableWith_frz (m : MapMode) : (enableWith m s).frz = s.frz := rfl
@[simp] theorem enableWith_capCnt (m : MapMode) : (enableWith m s).capCnt = s.capCnt := rfl
@[simp] theorem enableWith_flash (m : MapMode) : (enableWith m s).flash = s.flash := rfl
@[simp] theorem enableWith_eepi (m : MapMode) : (enableWith m s).eepi = s.eepi := rfl
@[simp] theorem enableWith_rom (m : MapMode) : (enableWith m s).rom = s.rom := rfl
@[simp] theorem enableWith_ram (m : MapMode) : (enableWith m s).ram = s.ram := rfl
@[simp] theorem enableWith_eep (m : MapMode) : (enableWith m s).eep = s.eep := rfl
@[simp] theorem enableWith_shadow (m : MapMode) : (enableWith m s).shadow = s.shadow := rfl
@[simp] theorem enableWith_resident (m : MapMode) : (enableWith m s).resident = s.resident := rfl

/-! ### `disable` -/

@[simp] theorem disable_active : (disable s).active = s.active := rfl
@[simp] theorem disable_sessionNo : (disable s).sessionNo = s.sessionNo := rfl
@[simp] theorem disable_cfg : (disable s).cfg = s.cfg := rfl
@[simp] theorem disable_inputs : (disable s).inputs = s.inputs := rfl
@[simp] theorem disable_loadError : (disable s).loadError = s.loadError := rfl
@[simp] theorem disable_reg : (disable s).reg = { s.reg with carten := false } := rfl
@[simp] theorem disable_map : (disable s).map = modeOff := rfl
@[simp] theorem disable_nmiOut : (disable s).nmiOut = s.nmiOut := rfl
@[simp] theorem disable_stallOut : (disable s).stallOut = s.stallOut := rfl
@[simp] theorem disable_drive : (disable s).drive = s.drive := rfl
@[simp] theorem disable_events : (disable s).events = s.events := rfl
@[simp] theorem disable_dma : (disable s).dma = s.dma := rfl
@[simp] theorem disable_rst : (disable s).rst = s.rst := rfl
@[simp] theorem disable_frz : (disable s).frz = s.frz := rfl
@[simp] theorem disable_capCnt : (disable s).capCnt = s.capCnt := rfl
@[simp] theorem disable_flash : (disable s).flash = s.flash := rfl
@[simp] theorem disable_eepi : (disable s).eepi = s.eepi := rfl
@[simp] theorem disable_rom : (disable s).rom = s.rom := rfl
@[simp] theorem disable_ram : (disable s).ram = s.ram := rfl
@[simp] theorem disable_eep : (disable s).eep = s.eep := rfl
@[simp] theorem disable_shadow : (disable s).shadow = s.shadow := rfl
@[simp] theorem disable_resident : (disable s).resident = s.resident := rfl

/-! ### `prefetch` -/

@[simp] theorem prefetch_active (b : Byte) : (prefetch b s).active = s.active := rfl
@[simp] theorem prefetch_sessionNo (b : Byte) : (prefetch b s).sessionNo = s.sessionNo := rfl
@[simp] theorem prefetch_cfg (b : Byte) : (prefetch b s).cfg = s.cfg := rfl
@[simp] theorem prefetch_inputs (b : Byte) : (prefetch b s).inputs = s.inputs := rfl
@[simp] theorem prefetch_loadError (b : Byte) : (prefetch b s).loadError = s.loadError := rfl
@[simp] theorem prefetch_reg (b : Byte) : (prefetch b s).reg = s.reg := rfl
@[simp] theorem prefetch_map (b : Byte) : (prefetch b s).map = s.map := rfl
@[simp] theorem prefetch_nmiOut (b : Byte) : (prefetch b s).nmiOut = s.nmiOut := rfl
@[simp] theorem prefetch_stallOut (b : Byte) : (prefetch b s).stallOut = s.stallOut := rfl
@[simp] theorem prefetch_drive (b : Byte) : (prefetch b s).drive = s.drive := rfl
@[simp] theorem prefetch_events (b : Byte) : (prefetch b s).events = s.events ++ [.prefetch b] := rfl
@[simp] theorem prefetch_dma (b : Byte) : (prefetch b s).dma = s.dma := rfl
@[simp] theorem prefetch_rst (b : Byte) : (prefetch b s).rst = s.rst := rfl
@[simp] theorem prefetch_frz (b : Byte) : (prefetch b s).frz = s.frz := rfl
@[simp] theorem prefetch_capCnt (b : Byte) : (prefetch b s).capCnt = s.capCnt := rfl
@[simp] theorem prefetch_flash (b : Byte) : (prefetch b s).flash = s.flash := rfl
@[simp] theorem prefetch_eepi (b : Byte) : (prefetch b s).eepi = s.eepi := rfl
@[simp] theorem prefetch_rom (b : Byte) : (prefetch b s).rom = s.rom := rfl
@[simp] theorem prefetch_ram (b : Byte) : (prefetch b s).ram = s.ram := rfl
@[simp] theorem prefetch_eep (b : Byte) : (prefetch b s).eep = s.eep := rfl
@[simp] theorem prefetch_shadow (b : Byte) : (prefetch b s).shadow = s.shadow := rfl
@[simp] theorem prefetch_resident (b : Byte) : (prefetch b s).resident = [b] := rfl

/-! ### `beginInvocation` -/

@[simp] theorem beginInvocation_active : (beginInvocation s).active = s.active := rfl
@[simp] theorem beginInvocation_sessionNo : (beginInvocation s).sessionNo = s.sessionNo := rfl
@[simp] theorem beginInvocation_cfg : (beginInvocation s).cfg = s.cfg := rfl
@[simp] theorem beginInvocation_inputs : (beginInvocation s).inputs = s.inputs := rfl
@[simp] theorem beginInvocation_loadError : (beginInvocation s).loadError = s.loadError := rfl
@[simp] theorem beginInvocation_reg : (beginInvocation s).reg = s.reg := rfl
@[simp] theorem beginInvocation_map : (beginInvocation s).map = s.map := rfl
@[simp] theorem beginInvocation_nmiOut : (beginInvocation s).nmiOut = s.nmiOut := rfl
@[simp] theorem beginInvocation_stallOut : (beginInvocation s).stallOut = s.stallOut := rfl
@[simp] theorem beginInvocation_drive : (beginInvocation s).drive = none := rfl
@[simp] theorem beginInvocation_events : (beginInvocation s).events = [] := rfl
@[simp] theorem beginInvocation_dma : (beginInvocation s).dma = s.dma := rfl
@[simp] theorem beginInvocation_rst : (beginInvocation s).rst = s.rst := rfl
@[simp] theorem beginInvocation_frz : (beginInvocation s).frz = s.frz := rfl
@[simp] theorem beginInvocation_capCnt : (beginInvocation s).capCnt = s.capCnt := rfl
@[simp] theorem beginInvocation_flash : (beginInvocation s).flash = s.flash := rfl
@[simp] theorem beginInvocation_eepi : (beginInvocation s).eepi = s.eepi := rfl
@[simp] theorem beginInvocation_rom : (beginInvocation s).rom = s.rom := rfl
@[simp] theorem beginInvocation_ram : (beginInvocation s).ram = s.ram := rfl
@[simp] theorem beginInvocation_eep : (beginInvocation s).eep = s.eep := rfl
@[simp] theorem beginInvocation_shadow : (beginInvocation s).shadow = s.shadow := rfl
@[simp] theorem beginInvocation_resident : (beginInvocation s).resident = s.resident := rfl

/-! ### `setEepi` -/

@[simp] theorem setEepi_active (e : EepromIface) : (setEepi e s).active = s.active := rfl
@[simp] theorem setEepi_sessionNo (e : EepromIface) : (setEepi e s).sessionNo = s.sessionNo := rfl
@[simp] theorem setEepi_cfg (e : EepromIface) : (setEepi e s).cfg = s.cfg := rfl
@[simp] theorem setEepi_inputs (e : EepromIface) : (setEepi e s).inputs = s.inputs := rfl
@[simp] theorem setEepi_loadError (e : EepromIface) : (setEepi e s).loadError = s.loadError := rfl
@[simp] theorem setEepi_reg (e : EepromIface) : (setEepi e s).reg = s.reg := rfl
@[simp] theorem setEepi_map (e : EepromIface) : (setEepi e s).map = s.map := rfl
@[simp] theorem setEepi_nmiOut (e : EepromIface) : (setEepi e s).nmiOut = s.nmiOut := rfl
@[simp] theorem setEepi_stallOut (e : EepromIface) : (setEepi e s).stallOut = s.stallOut := rfl
@[simp] theorem setEepi_drive (e : EepromIface) : (setEepi e s).drive = s.drive := rfl
@[simp] theorem setEepi_events (e : EepromIface) : (setEepi e s).events = s.events := rfl
@[simp] theorem setEepi_dma (e : EepromIface) : (setEepi e s).dma = s.dma := rfl
@[simp] theorem setEepi_rst (e : EepromIface) : (setEepi e s).rst = s.rst := rfl
@[simp] theorem setEepi_frz (e : EepromIface) : (setEepi e s).frz = s.frz := rfl
@[simp] theorem setEepi_capCnt (e : EepromIface) : (setEepi e s).capCnt = s.capCnt := rfl
@[simp] theorem setEepi_flash (e : EepromIface) : (setEepi e s).flash = s.flash := rfl
@[simp] theorem setEepi_eepi (e : EepromIface) : (setEepi e s).eepi = e := rfl
@[simp] theorem setEepi_rom (e : EepromIface) : (setEepi e s).rom = s.rom := rfl
@[simp] theorem setEepi_ram (e : EepromIface) : (setEepi e s).ram = s.ram := rfl
@[simp] theorem setEepi_eep (e : EepromIface) : (setEepi e s).eep = s.eep := rfl
@[simp] theorem setEepi_shadow (e : EepromIface) : (setEepi e s).shadow = s.shadow := rfl
@[simp] theorem setEepi_resident (e : EepromIface) : (setEepi e s).resident = s.resident := rfl

end Sys2Proof.Machine
end

