-- ==== Sys2Proof/Laws/Frames.lean ====
section
/-!
SUPPORT. What each shared operation leaves unchanged: one lemma for each untouched field, for the simplifier.
-/

namespace Sys2Proof.Machine

/-! ### Frame of `setBank`: BANK and the stall controller change -/

@[simp] theorem setBank_active (nb : Byte) (s : State) : (setBank nb s).active = s.active := by
  unfold setBank dmaRequest; repeat' split
  all_goals rfl
@[simp] theorem setBank_sessionNo (nb : Byte) (s : State) : (setBank nb s).sessionNo = s.sessionNo := by
  unfold setBank dmaRequest; repeat' split
  all_goals rfl
@[simp] theorem setBank_cfg (nb : Byte) (s : State) : (setBank nb s).cfg = s.cfg := by
  unfold setBank dmaRequest; repeat' split
  all_goals rfl
@[simp] theorem setBank_inputs (nb : Byte) (s : State) : (setBank nb s).inputs = s.inputs := by
  unfold setBank dmaRequest; repeat' split
  all_goals rfl
@[simp] theorem setBank_loadError (nb : Byte) (s : State) : (setBank nb s).loadError = s.loadError := by
  unfold setBank dmaRequest; repeat' split
  all_goals rfl
@[simp] theorem setBank_map (nb : Byte) (s : State) : (setBank nb s).map = s.map := by
  unfold setBank dmaRequest; repeat' split
  all_goals rfl
@[simp] theorem setBank_nmiOut (nb : Byte) (s : State) : (setBank nb s).nmiOut = s.nmiOut := by
  unfold setBank dmaRequest; repeat' split
  all_goals rfl
@[simp] theorem setBank_stallOut (nb : Byte) (s : State) : (setBank nb s).stallOut = s.stallOut := by
  unfold setBank dmaRequest; repeat' split
  all_goals rfl
@[simp] theorem setBank_drive (nb : Byte) (s : State) : (setBank nb s).drive = s.drive := by
  unfold setBank dmaRequest; repeat' split
  all_goals rfl
@[simp] theorem setBank_rst (nb : Byte) (s : State) : (setBank nb s).rst = s.rst := by
  unfold setBank dmaRequest; repeat' split
  all_goals rfl
@[simp] theorem setBank_frz (nb : Byte) (s : State) : (setBank nb s).frz = s.frz := by
  unfold setBank dmaRequest; repeat' split
  all_goals rfl
@[simp] theorem setBank_capCnt (nb : Byte) (s : State) : (setBank nb s).capCnt = s.capCnt := by
  unfold setBank dmaRequest; repeat' split
  all_goals rfl
@[simp] theorem setBank_flash (nb : Byte) (s : State) : (setBank nb s).flash = s.flash := by
  unfold setBank dmaRequest; repeat' split
  all_goals rfl
@[simp] theorem setBank_eepi (nb : Byte) (s : State) : (setBank nb s).eepi = s.eepi := by
  unfold setBank dmaRequest; repeat' split
  all_goals rfl
@[simp] theorem setBank_rom (nb : Byte) (s : State) : (setBank nb s).rom = s.rom := by
  unfold setBank dmaRequest; repeat' split
  all_goals rfl
@[simp] theorem setBank_ram (nb : Byte) (s : State) : (setBank nb s).ram = s.ram := by
  unfold setBank dmaRequest; repeat' split
  all_goals rfl
@[simp] theorem setBank_eep (nb : Byte) (s : State) : (setBank nb s).eep = s.eep := by
  unfold setBank dmaRequest; repeat' split
  all_goals rfl
@[simp] theorem setBank_shadow (nb : Byte) (s : State) : (setBank nb s).shadow = s.shadow := by
  unfold setBank dmaRequest; repeat' split
  all_goals rfl
@[simp] theorem setBank_reg_ctrl (nb : Byte) (s : State) : (setBank nb s).reg.ctrl = s.reg.ctrl := by
  unfold setBank dmaRequest; repeat' split
  all_goals rfl
@[simp] theorem setBank_reg_ramexp (nb : Byte) (s : State) : (setBank nb s).reg.ramexp = s.reg.ramexp := by
  unfold setBank dmaRequest; repeat' split
  all_goals rfl
@[simp] theorem setBank_reg_carten (nb : Byte) (s : State) : (setBank nb s).reg.carten = s.reg.carten := by
  unfold setBank dmaRequest; repeat' split
  all_goals rfl

/-! ### Frame of `selectBank`: as `setBank` -/

@[simp] theorem selectBank_active (b : Nat) (s : State) : (selectBank b s).active = s.active := setBank_active _ s
@[simp] theorem selectBank_sessionNo (b : Nat) (s : State) : (selectBank b s).sessionNo = s.sessionNo :=
    setBank_sessionNo _ s
@[simp] theorem selectBank_cfg (b : Nat) (s : State) : (selectBank b s).cfg = s.cfg := setBank_cfg _ s
@[simp] theorem selectBank_inputs (b : Nat) (s : State) : (selectBank b s).inputs = s.inputs := setBank_inputs _ s
@[simp] theorem selectBank_loadError (b : Nat) (s : State) : (selectBank b s).loadError = s.loadError :=
    setBank_loadError _ s
@[simp] theorem selectBank_map (b : Nat) (s : State) : (selectBank b s).map = s.map := setBank_map _ s
@[simp] theorem selectBank_nmiOut (b : Nat) (s : State) : (selectBank b s).nmiOut = s.nmiOut := setBank_nmiOut _ s
@[simp] theorem selectBank_stallOut (b : Nat) (s : State) : (selectBank b s).stallOut = s.stallOut :=
    setBank_stallOut _ s
@[simp] theorem selectBank_drive (b : Nat) (s : State) : (selectBank b s).drive = s.drive := setBank_drive _ s
@[simp] theorem selectBank_rst (b : Nat) (s : State) : (selectBank b s).rst = s.rst := setBank_rst _ s
@[simp] theorem selectBank_frz (b : Nat) (s : State) : (selectBank b s).frz = s.frz := setBank_frz _ s
@[simp] theorem selectBank_capCnt (b : Nat) (s : State) : (selectBank b s).capCnt = s.capCnt := setBank_capCnt _ s
@[simp] theorem selectBank_flash (b : Nat) (s : State) : (selectBank b s).flash = s.flash := setBank_flash _ s
@[simp] theorem selectBank_eepi (b : Nat) (s : State) : (selectBank b s).eepi = s.eepi := setBank_eepi _ s
@[simp] theorem selectBank_rom (b : Nat) (s : State) : (selectBank b s).rom = s.rom := setBank_rom _ s
@[simp] theorem selectBank_ram (b : Nat) (s : State) : (selectBank b s).ram = s.ram := setBank_ram _ s
@[simp] theorem selectBank_eep (b : Nat) (s : State) : (selectBank b s).eep = s.eep := setBank_eep _ s
@[simp] theorem selectBank_shadow (b : Nat) (s : State) : (selectBank b s).shadow = s.shadow := setBank_shadow _ s
@[simp] theorem selectBank_reg_ctrl (b : Nat) (s : State) : (selectBank b s).reg.ctrl = s.reg.ctrl :=
    setBank_reg_ctrl _ s
@[simp] theorem selectBank_reg_ramexp (b : Nat) (s : State) : (selectBank b s).reg.ramexp = s.reg.ramexp :=
    setBank_reg_ramexp _ s
@[simp] theorem selectBank_reg_carten (b : Nat) (s : State) : (selectBank b s).reg.carten = s.reg.carten :=
    setBank_reg_carten _ s

/-! ### Frame of `dmaTick`: the stall controller and its line change -/

@[simp] theorem dmaTick_active (s : State) : (dmaTick s).active = s.active := by
  unfold dmaTick; repeat' split
  all_goals rfl
@[simp] theorem dmaTick_sessionNo (s : State) : (dmaTick s).sessionNo = s.sessionNo := by
  unfold dmaTick; repeat' split
  all_goals rfl
@[simp] theorem dmaTick_cfg (s : State) : (dmaTick s).cfg = s.cfg := by
  unfold dmaTick; repeat' split
  all_goals rfl
@[simp] theorem dmaTick_inputs (s : State) : (dmaTick s).inputs = s.inputs := by
  unfold dmaTick; repeat' split
  all_goals rfl
@[simp] theorem dmaTick_loadError (s : State) : (dmaTick s).loadError = s.loadError := by
  unfold dmaTick; repeat' split
  all_goals rfl
@[simp] theorem dmaTick_reg (s : State) : (dmaTick s).reg = s.reg := by
  unfold dmaTick; repeat' split
  all_goals rfl
@[simp] theorem dmaTick_map (s : State) : (dmaTick s).map = s.map := by
  unfold dmaTick; repeat' split
  all_goals rfl
@[simp] theorem dmaTick_nmiOut (s : State) : (dmaTick s).nmiOut = s.nmiOut := by
  unfold dmaTick; repeat' split
  all_goals rfl
@[simp] theorem dmaTick_drive (s : State) : (dmaTick s).drive = s.drive := by
  unfold dmaTick; repeat' split
  all_goals rfl
@[simp] theorem dmaTick_rst (s : State) : (dmaTick s).rst = s.rst := by
  unfold dmaTick; repeat' split
  all_goals rfl
@[simp] theorem dmaTick_frz (s : State) : (dmaTick s).frz = s.frz := by
  unfold dmaTick; repeat' split
  all_goals rfl
@[simp] theorem dmaTick_capCnt (s : State) : (dmaTick s).capCnt = s.capCnt := by
  unfold dmaTick; repeat' split
  all_goals rfl
@[simp] theorem dmaTick_flash (s : State) : (dmaTick s).flash = s.flash := by
  unfold dmaTick; repeat' split
  all_goals rfl
@[simp] theorem dmaTick_eepi (s : State) : (dmaTick s).eepi = s.eepi := by
  unfold dmaTick; repeat' split
  all_goals rfl
@[simp] theorem dmaTick_rom (s : State) : (dmaTick s).rom = s.rom := by
  unfold dmaTick; repeat' split
  all_goals rfl
@[simp] theorem dmaTick_ram (s : State) : (dmaTick s).ram = s.ram := by
  unfold dmaTick; repeat' split
  all_goals rfl
@[simp] theorem dmaTick_eep (s : State) : (dmaTick s).eep = s.eep := by
  unfold dmaTick; repeat' split
  all_goals rfl
@[simp] theorem dmaTick_shadow (s : State) : (dmaTick s).shadow = s.shadow := by
  unfold dmaTick; repeat' split
  all_goals rfl

/-! ### Frame of `rearmCap`: the countdown changes -/

@[simp] theorem rearmCap_active (s : State) : (rearmCap s).active = s.active := by
  unfold rearmCap; repeat' split
  all_goals rfl
@[simp] theorem rearmCap_sessionNo (s : State) : (rearmCap s).sessionNo = s.sessionNo := by
  unfold rearmCap; repeat' split
  all_goals rfl
@[simp] theorem rearmCap_cfg (s : State) : (rearmCap s).cfg = s.cfg := by
  unfold rearmCap; repeat' split
  all_goals rfl
@[simp] theorem rearmCap_inputs (s : State) : (rearmCap s).inputs = s.inputs := by
  unfold rearmCap; repeat' split
  all_goals rfl
@[simp] theorem rearmCap_loadError (s : State) : (rearmCap s).loadError = s.loadError := by
  unfold rearmCap; repeat' split
  all_goals rfl
@[simp] theorem rearmCap_reg (s : State) : (rearmCap s).reg = s.reg := by
  unfold rearmCap; repeat' split
  all_goals rfl
@[simp] theorem rearmCap_map (s : State) : (rearmCap s).map = s.map := by
  unfold rearmCap; repeat' split
  all_goals rfl
@[simp] theorem rearmCap_nmiOut (s : State) : (rearmCap s).nmiOut = s.nmiOut := by
  unfold rearmCap; repeat' split
  all_goals rfl
@[simp] theorem rearmCap_stallOut (s : State) : (rearmCap s).stallOut = s.stallOut := by
  unfold rearmCap; repeat' split
  all_goals rfl
@[simp] theorem rearmCap_drive (s : State) : (rearmCap s).drive = s.drive := by
  unfold rearmCap; repeat' split
  all_goals rfl
@[simp] theorem rearmCap_events (s : State) : (rearmCap s).events = s.events := by
  unfold rearmCap; repeat' split
  all_goals rfl
@[simp] theorem rearmCap_dma (s : State) : (rearmCap s).dma = s.dma := by
  unfold rearmCap; repeat' split
  all_goals rfl
@[simp] theorem rearmCap_rst (s : State) : (rearmCap s).rst = s.rst := by
  unfold rearmCap; repeat' split
  all_goals rfl
@[simp] theorem rearmCap_frz (s : State) : (rearmCap s).frz = s.frz := by
  unfold rearmCap; repeat' split
  all_goals rfl
@[simp] theorem rearmCap_flash (s : State) : (rearmCap s).flash = s.flash := by
  unfold rearmCap; repeat' split
  all_goals rfl
@[simp] theorem rearmCap_eepi (s : State) : (rearmCap s).eepi = s.eepi := by
  unfold rearmCap; repeat' split
  all_goals rfl
@[simp] theorem rearmCap_rom (s : State) : (rearmCap s).rom = s.rom := by
  unfold rearmCap; repeat' split
  all_goals rfl
@[simp] theorem rearmCap_ram (s : State) : (rearmCap s).ram = s.ram := by
  unfold rearmCap; repeat' split
  all_goals rfl
@[simp] theorem rearmCap_eep (s : State) : (rearmCap s).eep = s.eep := by
  unfold rearmCap; repeat' split
  all_goals rfl
@[simp] theorem rearmCap_shadow (s : State) : (rearmCap s).shadow = s.shadow := by
  unfold rearmCap; repeat' split
  all_goals rfl
@[simp] theorem rearmCap_resident (s : State) : (rearmCap s).resident = s.resident := by
  unfold rearmCap; repeat' split
  all_goals rfl

/-! ### Frame of `driveOption`: the driven byte changes -/

@[simp] theorem driveOption_active (o : Option Byte) (s : State) : (driveOption o s).active = s.active :=
    by cases o <;> rfl
@[simp] theorem driveOption_sessionNo (o : Option Byte) (s : State) : (driveOption o s).sessionNo = s.sessionNo :=
    by cases o <;> rfl
@[simp] theorem driveOption_cfg (o : Option Byte) (s : State) : (driveOption o s).cfg = s.cfg := by cases o <;> rfl
@[simp] theorem driveOption_inputs (o : Option Byte) (s : State) : (driveOption o s).inputs = s.inputs :=
    by cases o <;> rfl
@[simp] theorem driveOption_loadError (o : Option Byte) (s : State) : (driveOption o s).loadError = s.loadError :=
    by cases o <;> rfl
@[simp] theorem driveOption_reg (o : Option Byte) (s : State) : (driveOption o s).reg = s.reg := by cases o <;> rfl
@[simp] theorem driveOption_map (o : Option Byte) (s : State) : (driveOption o s).map = s.map := by cases o <;> rfl
@[simp] theorem driveOption_nmiOut (o : Option Byte) (s : State) : (driveOption o s).nmiOut = s.nmiOut :=
    by cases o <;> rfl
@[simp] theorem driveOption_stallOut (o : Option Byte) (s : State) : (driveOption o s).stallOut = s.stallOut :=
    by cases o <;> rfl
@[simp] theorem driveOption_events (o : Option Byte) (s : State) : (driveOption o s).events = s.events :=
    by cases o <;> rfl
@[simp] theorem driveOption_dma (o : Option Byte) (s : State) : (driveOption o s).dma = s.dma := by cases o <;> rfl
@[simp] theorem driveOption_rst (o : Option Byte) (s : State) : (driveOption o s).rst = s.rst := by cases o <;> rfl
@[simp] theorem driveOption_frz (o : Option Byte) (s : State) : (driveOption o s).frz = s.frz := by cases o <;> rfl
@[simp] theorem driveOption_capCnt (o : Option Byte) (s : State) : (driveOption o s).capCnt = s.capCnt :=
    by cases o <;> rfl
@[simp] theorem driveOption_flash (o : Option Byte) (s : State) : (driveOption o s).flash = s.flash :=
    by cases o <;> rfl
@[simp] theorem driveOption_eepi (o : Option Byte) (s : State) : (driveOption o s).eepi = s.eepi := by cases o <;> rfl
@[simp] theorem driveOption_rom (o : Option Byte) (s : State) : (driveOption o s).rom = s.rom := by cases o <;> rfl
@[simp] theorem driveOption_ram (o : Option Byte) (s : State) : (driveOption o s).ram = s.ram := by cases o <;> rfl
@[simp] theorem driveOption_eep (o : Option Byte) (s : State) : (driveOption o s).eep = s.eep := by cases o <;> rfl
@[simp] theorem driveOption_shadow (o : Option Byte) (s : State) : (driveOption o s).shadow = s.shadow :=
    by cases o <;> rfl
@[simp] theorem driveOption_resident (o : Option Byte) (s : State) : (driveOption o s).resident = s.resident :=
    by cases o <;> rfl

/-! ### Frame of `romRead`: the driven byte changes -/

@[simp] theorem romRead_active (b : Byte) (w : RomWindow) (off : Offset) (s : State) : (romRead b w off s).active = s.active :=
    by
  unfold romRead; repeat' split
  all_goals rfl
@[simp] theorem romRead_sessionNo (b : Byte) (w : RomWindow) (off : Offset) (s : State) : (romRead b w off s).sessionNo = s.sessionNo :=
    by
  unfold romRead; repeat' split
  all_goals rfl
@[simp] theorem romRead_cfg (b : Byte) (w : RomWindow) (off : Offset) (s : State) : (romRead b w off s).cfg = s.cfg :=
    by
  unfold romRead; repeat' split
  all_goals rfl
@[simp] theorem romRead_inputs (b : Byte) (w : RomWindow) (off : Offset) (s : State) : (romRead b w off s).inputs = s.inputs :=
    by
  unfold romRead; repeat' split
  all_goals rfl
@[simp] theorem romRead_loadError (b : Byte) (w : RomWindow) (off : Offset) (s : State) : (romRead b w off s).loadError = s.loadError :=
    by
  unfold romRead; repeat' split
  all_goals rfl
@[simp] theorem romRead_reg (b : Byte) (w : RomWindow) (off : Offset) (s : State) : (romRead b w off s).reg = s.reg :=
    by
  unfold romRead; repeat' split
  all_goals rfl
@[simp] theorem romRead_map (b : Byte) (w : RomWindow) (off : Offset) (s : State) : (romRead b w off s).map = s.map :=
    by
  unfold romRead; repeat' split
  all_goals rfl
@[simp] theorem romRead_nmiOut (b : Byte) (w : RomWindow) (off : Offset) (s : State) : (romRead b w off s).nmiOut = s.nmiOut :=
    by
  unfold romRead; repeat' split
  all_goals rfl
@[simp] theorem romRead_stallOut (b : Byte) (w : RomWindow) (off : Offset) (s : State) : (romRead b w off s).stallOut = s.stallOut :=
    by
  unfold romRead; repeat' split
  all_goals rfl
@[simp] theorem romRead_events (b : Byte) (w : RomWindow) (off : Offset) (s : State) : (romRead b w off s).events = s.events :=
    by
  unfold romRead; repeat' split
  all_goals rfl
@[simp] theorem romRead_dma (b : Byte) (w : RomWindow) (off : Offset) (s : State) : (romRead b w off s).dma = s.dma :=
    by
  unfold romRead; repeat' split
  all_goals rfl
@[simp] theorem romRead_rst (b : Byte) (w : RomWindow) (off : Offset) (s : State) : (romRead b w off s).rst = s.rst :=
    by
  unfold romRead; repeat' split
  all_goals rfl
@[simp] theorem romRead_frz (b : Byte) (w : RomWindow) (off : Offset) (s : State) : (romRead b w off s).frz = s.frz :=
    by
  unfold romRead; repeat' split
  all_goals rfl
@[simp] theorem romRead_capCnt (b : Byte) (w : RomWindow) (off : Offset) (s : State) : (romRead b w off s).capCnt = s.capCnt :=
    by
  unfold romRead; repeat' split
  all_goals rfl
@[simp] theorem romRead_flash (b : Byte) (w : RomWindow) (off : Offset) (s : State) : (romRead b w off s).flash = s.flash :=
    by
  unfold romRead; repeat' split
  all_goals rfl
@[simp] theorem romRead_eepi (b : Byte) (w : RomWindow) (off : Offset) (s : State) : (romRead b w off s).eepi = s.eepi :=
    by
  unfold romRead; repeat' split
  all_goals rfl
@[simp] theorem romRead_rom (b : Byte) (w : RomWindow) (off : Offset) (s : State) : (romRead b w off s).rom = s.rom :=
    by
  unfold romRead; repeat' split
  all_goals rfl
@[simp] theorem romRead_ram (b : Byte) (w : RomWindow) (off : Offset) (s : State) : (romRead b w off s).ram = s.ram :=
    by
  unfold romRead; repeat' split
  all_goals rfl
@[simp] theorem romRead_eep (b : Byte) (w : RomWindow) (off : Offset) (s : State) : (romRead b w off s).eep = s.eep :=
    by
  unfold romRead; repeat' split
  all_goals rfl
@[simp] theorem romRead_shadow (b : Byte) (w : RomWindow) (off : Offset) (s : State) : (romRead b w off s).shadow = s.shadow :=
    by
  unfold romRead; repeat' split
  all_goals rfl
@[simp] theorem romRead_resident (b : Byte) (w : RomWindow) (off : Offset) (s : State) : (romRead b w off s).resident = s.resident :=
    by
  unfold romRead; repeat' split
  all_goals rfl

/-! ### Frame of `ramOrRomRead`: the driven byte changes -/

@[simp] theorem ramOrRomRead_active (i : Nat) (off : Offset) (s : State) : (ramOrRomRead i off s).active = s.active :=
    by
  unfold ramOrRomRead; repeat' split
  all_goals rfl
@[simp] theorem ramOrRomRead_sessionNo (i : Nat) (off : Offset) (s : State) : (ramOrRomRead i off s).sessionNo = s.sessionNo :=
    by
  unfold ramOrRomRead; repeat' split
  all_goals rfl
@[simp] theorem ramOrRomRead_cfg (i : Nat) (off : Offset) (s : State) : (ramOrRomRead i off s).cfg = s.cfg := by
  unfold ramOrRomRead; repeat' split
  all_goals rfl
@[simp] theorem ramOrRomRead_inputs (i : Nat) (off : Offset) (s : State) : (ramOrRomRead i off s).inputs = s.inputs :=
    by
  unfold ramOrRomRead; repeat' split
  all_goals rfl
@[simp] theorem ramOrRomRead_loadError (i : Nat) (off : Offset) (s : State) : (ramOrRomRead i off s).loadError = s.loadError :=
    by
  unfold ramOrRomRead; repeat' split
  all_goals rfl
@[simp] theorem ramOrRomRead_reg (i : Nat) (off : Offset) (s : State) : (ramOrRomRead i off s).reg = s.reg := by
  unfold ramOrRomRead; repeat' split
  all_goals rfl
@[simp] theorem ramOrRomRead_map (i : Nat) (off : Offset) (s : State) : (ramOrRomRead i off s).map = s.map := by
  unfold ramOrRomRead; repeat' split
  all_goals rfl
@[simp] theorem ramOrRomRead_nmiOut (i : Nat) (off : Offset) (s : State) : (ramOrRomRead i off s).nmiOut = s.nmiOut :=
    by
  unfold ramOrRomRead; repeat' split
  all_goals rfl
@[simp] theorem ramOrRomRead_stallOut (i : Nat) (off : Offset) (s : State) : (ramOrRomRead i off s).stallOut = s.stallOut :=
    by
  unfold ramOrRomRead; repeat' split
  all_goals rfl
@[simp] theorem ramOrRomRead_events (i : Nat) (off : Offset) (s : State) : (ramOrRomRead i off s).events = s.events :=
    by
  unfold ramOrRomRead; repeat' split
  all_goals rfl
@[simp] theorem ramOrRomRead_dma (i : Nat) (off : Offset) (s : State) : (ramOrRomRead i off s).dma = s.dma := by
  unfold ramOrRomRead; repeat' split
  all_goals rfl
@[simp] theorem ramOrRomRead_rst (i : Nat) (off : Offset) (s : State) : (ramOrRomRead i off s).rst = s.rst := by
  unfold ramOrRomRead; repeat' split
  all_goals rfl
@[simp] theorem ramOrRomRead_frz (i : Nat) (off : Offset) (s : State) : (ramOrRomRead i off s).frz = s.frz := by
  unfold ramOrRomRead; repeat' split
  all_goals rfl
@[simp] theorem ramOrRomRead_capCnt (i : Nat) (off : Offset) (s : State) : (ramOrRomRead i off s).capCnt = s.capCnt :=
    by
  unfold ramOrRomRead; repeat' split
  all_goals rfl
@[simp] theorem ramOrRomRead_flash (i : Nat) (off : Offset) (s : State) : (ramOrRomRead i off s).flash = s.flash := by
  unfold ramOrRomRead; repeat' split
  all_goals rfl
@[simp] theorem ramOrRomRead_eepi (i : Nat) (off : Offset) (s : State) : (ramOrRomRead i off s).eepi = s.eepi := by
  unfold ramOrRomRead; repeat' split
  all_goals rfl
@[simp] theorem ramOrRomRead_rom (i : Nat) (off : Offset) (s : State) : (ramOrRomRead i off s).rom = s.rom := by
  unfold ramOrRomRead; repeat' split
  all_goals rfl
@[simp] theorem ramOrRomRead_ram (i : Nat) (off : Offset) (s : State) : (ramOrRomRead i off s).ram = s.ram := by
  unfold ramOrRomRead; repeat' split
  all_goals rfl
@[simp] theorem ramOrRomRead_eep (i : Nat) (off : Offset) (s : State) : (ramOrRomRead i off s).eep = s.eep := by
  unfold ramOrRomRead; repeat' split
  all_goals rfl
@[simp] theorem ramOrRomRead_shadow (i : Nat) (off : Offset) (s : State) : (ramOrRomRead i off s).shadow = s.shadow :=
    by
  unfold ramOrRomRead; repeat' split
  all_goals rfl
@[simp] theorem ramOrRomRead_resident (i : Nat) (off : Offset) (s : State) : (ramOrRomRead i off s).resident = s.resident :=
    by
  unfold ramOrRomRead; repeat' split
  all_goals rfl

/-! ### Frame of `capTick`: the countdown, CARTEN and the mapping lines change -/

@[simp] theorem capTick_active (s : State) : (capTick s).active = s.active := by
  unfold capTick; repeat' split
  all_goals rfl
@[simp] theorem capTick_sessionNo (s : State) : (capTick s).sessionNo = s.sessionNo := by
  unfold capTick; repeat' split
  all_goals rfl
@[simp] theorem capTick_cfg (s : State) : (capTick s).cfg = s.cfg := by
  unfold capTick; repeat' split
  all_goals rfl
@[simp] theorem capTick_inputs (s : State) : (capTick s).inputs = s.inputs := by
  unfold capTick; repeat' split
  all_goals rfl
@[simp] theorem capTick_loadError (s : State) : (capTick s).loadError = s.loadError := by
  unfold capTick; repeat' split
  all_goals rfl
@[simp] theorem capTick_nmiOut (s : State) : (capTick s).nmiOut = s.nmiOut := by
  unfold capTick; repeat' split
  all_goals rfl
@[simp] theorem capTick_stallOut (s : State) : (capTick s).stallOut = s.stallOut := by
  unfold capTick; repeat' split
  all_goals rfl
@[simp] theorem capTick_drive (s : State) : (capTick s).drive = s.drive := by
  unfold capTick; repeat' split
  all_goals rfl
@[simp] theorem capTick_events (s : State) : (capTick s).events = s.events := by
  unfold capTick; repeat' split
  all_goals rfl
@[simp] theorem capTick_dma (s : State) : (capTick s).dma = s.dma := by
  unfold capTick; repeat' split
  all_goals rfl
@[simp] theorem capTick_rst (s : State) : (capTick s).rst = s.rst := by
  unfold capTick; repeat' split
  all_goals rfl
@[simp] theorem capTick_frz (s : State) : (capTick s).frz = s.frz := by
  unfold capTick; repeat' split
  all_goals rfl
@[simp] theorem capTick_flash (s : State) : (capTick s).flash = s.flash := by
  unfold capTick; repeat' split
  all_goals rfl
@[simp] theorem capTick_eepi (s : State) : (capTick s).eepi = s.eepi := by
  unfold capTick; repeat' split
  all_goals rfl
@[simp] theorem capTick_rom (s : State) : (capTick s).rom = s.rom := by
  unfold capTick; repeat' split
  all_goals rfl
@[simp] theorem capTick_ram (s : State) : (capTick s).ram = s.ram := by
  unfold capTick; repeat' split
  all_goals rfl
@[simp] theorem capTick_eep (s : State) : (capTick s).eep = s.eep := by
  unfold capTick; repeat' split
  all_goals rfl
@[simp] theorem capTick_shadow (s : State) : (capTick s).shadow = s.shadow := by
  unfold capTick; repeat' split
  all_goals rfl
@[simp] theorem capTick_resident (s : State) : (capTick s).resident = s.resident := by
  unfold capTick; repeat' split
  all_goals rfl
@[simp] theorem capTick_reg_bank (s : State) : (capTick s).reg.bank = s.reg.bank := by
  unfold capTick; repeat' split
  all_goals rfl
@[simp] theorem capTick_reg_ctrl (s : State) : (capTick s).reg.ctrl = s.reg.ctrl := by
  unfold capTick; repeat' split
  all_goals rfl
@[simp] theorem capTick_reg_ramexp (s : State) : (capTick s).reg.ramexp = s.reg.ramexp := by
  unfold capTick; repeat' split
  all_goals rfl

/-! ### Frame of `nmiTick`: NMI_OUT and its countdown change -/

@[simp] theorem nmiTick_active (s : State) : (nmiTick s).active = s.active := by
  unfold nmiTick; repeat' split
  all_goals rfl
@[simp] theorem nmiTick_sessionNo (s : State) : (nmiTick s).sessionNo = s.sessionNo := by
  unfold nmiTick; repeat' split
  all_goals rfl
@[simp] theorem nmiTick_cfg (s : State) : (nmiTick s).cfg = s.cfg := by
  unfold nmiTick; repeat' split
  all_goals rfl
@[simp] theorem nmiTick_inputs (s : State) : (nmiTick s).inputs = s.inputs := by
  unfold nmiTick; repeat' split
  all_goals rfl
@[simp] theorem nmiTick_loadError (s : State) : (nmiTick s).loadError = s.loadError := by
  unfold nmiTick; repeat' split
  all_goals rfl
@[simp] theorem nmiTick_reg (s : State) : (nmiTick s).reg = s.reg := by
  unfold nmiTick; repeat' split
  all_goals rfl
@[simp] theorem nmiTick_map (s : State) : (nmiTick s).map = s.map := by
  unfold nmiTick; repeat' split
  all_goals rfl
@[simp] theorem nmiTick_stallOut (s : State) : (nmiTick s).stallOut = s.stallOut := by
  unfold nmiTick; repeat' split
  all_goals rfl
@[simp] theorem nmiTick_drive (s : State) : (nmiTick s).drive = s.drive := by
  unfold nmiTick; repeat' split
  all_goals rfl
@[simp] theorem nmiTick_events (s : State) : (nmiTick s).events = s.events := by
  unfold nmiTick; repeat' split
  all_goals rfl
@[simp] theorem nmiTick_dma (s : State) : (nmiTick s).dma = s.dma := by
  unfold nmiTick; repeat' split
  all_goals rfl
@[simp] theorem nmiTick_rst (s : State) : (nmiTick s).rst = s.rst := by
  unfold nmiTick; repeat' split
  all_goals rfl
@[simp] theorem nmiTick_capCnt (s : State) : (nmiTick s).capCnt = s.capCnt := by
  unfold nmiTick; repeat' split
  all_goals rfl
@[simp] theorem nmiTick_flash (s : State) : (nmiTick s).flash = s.flash := by
  unfold nmiTick; repeat' split
  all_goals rfl
@[simp] theorem nmiTick_eepi (s : State) : (nmiTick s).eepi = s.eepi := by
  unfold nmiTick; repeat' split
  all_goals rfl
@[simp] theorem nmiTick_rom (s : State) : (nmiTick s).rom = s.rom := by
  unfold nmiTick; repeat' split
  all_goals rfl
@[simp] theorem nmiTick_ram (s : State) : (nmiTick s).ram = s.ram := by
  unfold nmiTick; repeat' split
  all_goals rfl
@[simp] theorem nmiTick_eep (s : State) : (nmiTick s).eep = s.eep := by
  unfold nmiTick; repeat' split
  all_goals rfl
@[simp] theorem nmiTick_shadow (s : State) : (nmiTick s).shadow = s.shadow := by
  unfold nmiTick; repeat' split
  all_goals rfl
@[simp] theorem nmiTick_resident (s : State) : (nmiTick s).resident = s.resident := by
  unfold nmiTick; repeat' split
  all_goals rfl
@[simp] theorem nmiTick_frz_fs (s : State) : (nmiTick s).frz.fs = s.frz.fs := by
  unfold nmiTick; repeat' split
  all_goals rfl
@[simp] theorem nmiTick_frz_btnCnt (s : State) : (nmiTick s).frz.btnCnt = s.frz.btnCnt := by
  unfold nmiTick; repeat' split
  all_goals rfl
@[simp] theorem nmiTick_frz_wrCnt (s : State) : (nmiTick s).frz.wrCnt = s.frz.wrCnt := by
  unfold nmiTick; repeat' split
  all_goals rfl

/-! ### Frame of `buttonTick`: FreezeState and NMI_OUT change -/

@[simp] theorem buttonTick_active (b : Bool) (s : State) : (buttonTick b s).active = s.active := by
  unfold buttonTick buttonEdge; repeat' split
  all_goals rfl
@[simp] theorem buttonTick_sessionNo (b : Bool) (s : State) : (buttonTick b s).sessionNo = s.sessionNo := by
  unfold buttonTick buttonEdge; repeat' split
  all_goals rfl
@[simp] theorem buttonTick_cfg (b : Bool) (s : State) : (buttonTick b s).cfg = s.cfg := by
  unfold buttonTick buttonEdge; repeat' split
  all_goals rfl
@[simp] theorem buttonTick_inputs (b : Bool) (s : State) : (buttonTick b s).inputs = s.inputs := by
  unfold buttonTick buttonEdge; repeat' split
  all_goals rfl
@[simp] theorem buttonTick_loadError (b : Bool) (s : State) : (buttonTick b s).loadError = s.loadError := by
  unfold buttonTick buttonEdge; repeat' split
  all_goals rfl
@[simp] theorem buttonTick_reg (b : Bool) (s : State) : (buttonTick b s).reg = s.reg := by
  unfold buttonTick buttonEdge; repeat' split
  all_goals rfl
@[simp] theorem buttonTick_map (b : Bool) (s : State) : (buttonTick b s).map = s.map := by
  unfold buttonTick buttonEdge; repeat' split
  all_goals rfl
@[simp] theorem buttonTick_stallOut (b : Bool) (s : State) : (buttonTick b s).stallOut = s.stallOut := by
  unfold buttonTick buttonEdge; repeat' split
  all_goals rfl
@[simp] theorem buttonTick_drive (b : Bool) (s : State) : (buttonTick b s).drive = s.drive := by
  unfold buttonTick buttonEdge; repeat' split
  all_goals rfl
@[simp] theorem buttonTick_events (b : Bool) (s : State) : (buttonTick b s).events = s.events := by
  unfold buttonTick buttonEdge; repeat' split
  all_goals rfl
@[simp] theorem buttonTick_dma (b : Bool) (s : State) : (buttonTick b s).dma = s.dma := by
  unfold buttonTick buttonEdge; repeat' split
  all_goals rfl
@[simp] theorem buttonTick_rst (b : Bool) (s : State) : (buttonTick b s).rst = s.rst := by
  unfold buttonTick buttonEdge; repeat' split
  all_goals rfl
@[simp] theorem buttonTick_capCnt (b : Bool) (s : State) : (buttonTick b s).capCnt = s.capCnt := by
  unfold buttonTick buttonEdge; repeat' split
  all_goals rfl
@[simp] theorem buttonTick_flash (b : Bool) (s : State) : (buttonTick b s).flash = s.flash := by
  unfold buttonTick buttonEdge; repeat' split
  all_goals rfl
@[simp] theorem buttonTick_eepi (b : Bool) (s : State) : (buttonTick b s).eepi = s.eepi := by
  unfold buttonTick buttonEdge; repeat' split
  all_goals rfl
@[simp] theorem buttonTick_rom (b : Bool) (s : State) : (buttonTick b s).rom = s.rom := by
  unfold buttonTick buttonEdge; repeat' split
  all_goals rfl
@[simp] theorem buttonTick_ram (b : Bool) (s : State) : (buttonTick b s).ram = s.ram := by
  unfold buttonTick buttonEdge; repeat' split
  all_goals rfl
@[simp] theorem buttonTick_eep (b : Bool) (s : State) : (buttonTick b s).eep = s.eep := by
  unfold buttonTick buttonEdge; repeat' split
  all_goals rfl
@[simp] theorem buttonTick_shadow (b : Bool) (s : State) : (buttonTick b s).shadow = s.shadow := by
  unfold buttonTick buttonEdge; repeat' split
  all_goals rfl
@[simp] theorem buttonTick_resident (b : Bool) (s : State) : (buttonTick b s).resident = s.resident := by
  unfold buttonTick buttonEdge; repeat' split
  all_goals rfl

/-! ### Frame of `mapFrozen`: the registers, the mapping lines, FreezeState and the stall controller change -/

@[simp] theorem mapFrozen_active (s : State) : (mapFrozen s).active = s.active := by
  unfold mapFrozen; repeat' split
  all_goals simp
@[simp] theorem mapFrozen_sessionNo (s : State) : (mapFrozen s).sessionNo = s.sessionNo := by
  unfold mapFrozen; repeat' split
  all_goals simp
@[simp] theorem mapFrozen_cfg (s : State) : (mapFrozen s).cfg = s.cfg := by
  unfold mapFrozen; repeat' split
  all_goals simp
@[simp] theorem mapFrozen_inputs (s : State) : (mapFrozen s).inputs = s.inputs := by
  unfold mapFrozen; repeat' split
  all_goals simp
@[simp] theorem mapFrozen_loadError (s : State) : (mapFrozen s).loadError = s.loadError := by
  unfold mapFrozen; repeat' split
  all_goals simp
@[simp] theorem mapFrozen_map (s : State) : (mapFrozen s).map = s.map := by
  unfold mapFrozen; repeat' split
  all_goals simp
@[simp] theorem mapFrozen_nmiOut (s : State) : (mapFrozen s).nmiOut = s.nmiOut := by
  unfold mapFrozen; repeat' split
  all_goals simp
@[simp] theorem mapFrozen_stallOut (s : State) : (mapFrozen s).stallOut = s.stallOut := by
  unfold mapFrozen; repeat' split
  all_goals simp
@[simp] theorem mapFrozen_drive (s : State) : (mapFrozen s).drive = s.drive := by
  unfold mapFrozen; repeat' split
  all_goals simp
@[simp] theorem mapFrozen_rst (s : State) : (mapFrozen s).rst = s.rst := by
  unfold mapFrozen; repeat' split
  all_goals simp
@[simp] theorem mapFrozen_frz (s : State) : (mapFrozen s).frz = s.frz := by
  unfold mapFrozen; repeat' split
  all_goals simp
@[simp] theorem mapFrozen_capCnt (s : State) : (mapFrozen s).capCnt = s.capCnt := by
  unfold mapFrozen; repeat' split
  all_goals simp
@[simp] theorem mapFrozen_flash (s : State) : (mapFrozen s).flash = s.flash := by
  unfold mapFrozen; repeat' split
  all_goals simp
@[simp] theorem mapFrozen_eepi (s : State) : (mapFrozen s).eepi = s.eepi := by
  unfold mapFrozen; repeat' split
  all_goals simp
@[simp] theorem mapFrozen_rom (s : State) : (mapFrozen s).rom = s.rom := by
  unfold mapFrozen; repeat' split
  all_goals simp
@[simp] theorem mapFrozen_ram (s : State) : (mapFrozen s).ram = s.ram := by
  unfold mapFrozen; repeat' split
  all_goals simp
@[simp] theorem mapFrozen_eep (s : State) : (mapFrozen s).eep = s.eep := by
  unfold mapFrozen; repeat' split
  all_goals simp
@[simp] theorem mapFrozen_shadow (s : State) : (mapFrozen s).shadow = s.shadow := by
  unfold mapFrozen; repeat' split
  all_goals simp

/-! ### Frame of `enterActive`: as `mapFrozen`, with the mapping lines, FreezeState and NMI_OUT -/

@[simp] theorem enterActive_active (s : State) : (enterActive s).active = s.active := by simp [enterActive]
@[simp] theorem enterActive_sessionNo (s : State) : (enterActive s).sessionNo = s.sessionNo := by simp [enterActive]
@[simp] theorem enterActive_cfg (s : State) : (enterActive s).cfg = s.cfg := by simp [enterActive]
@[simp] theorem enterActive_inputs (s : State) : (enterActive s).inputs = s.inputs := by simp [enterActive]
@[simp] theorem enterActive_loadError (s : State) : (enterActive s).loadError = s.loadError := by simp [enterActive]
@[simp] theorem enterActive_stallOut (s : State) : (enterActive s).stallOut = s.stallOut := by simp [enterActive]
@[simp] theorem enterActive_drive (s : State) : (enterActive s).drive = s.drive := by simp [enterActive]
@[simp] theorem enterActive_rst (s : State) : (enterActive s).rst = s.rst := by simp [enterActive]
@[simp] theorem enterActive_capCnt (s : State) : (enterActive s).capCnt = s.capCnt := by simp [enterActive]
@[simp] theorem enterActive_flash (s : State) : (enterActive s).flash = s.flash := by simp [enterActive]
@[simp] theorem enterActive_eepi (s : State) : (enterActive s).eepi = s.eepi := by simp [enterActive]
@[simp] theorem enterActive_rom (s : State) : (enterActive s).rom = s.rom := by simp [enterActive]
@[simp] theorem enterActive_ram (s : State) : (enterActive s).ram = s.ram := by simp [enterActive]
@[simp] theorem enterActive_eep (s : State) : (enterActive s).eep = s.eep := by simp [enterActive]
@[simp] theorem enterActive_shadow (s : State) : (enterActive s).shadow = s.shadow := by simp [enterActive]

/-! ### Frame of `freezeObserve`: as `enterActive` -/

@[simp] theorem freezeObserve_active (rw : Bool) (s : State) : (freezeObserve rw s).active = s.active := by
  unfold freezeObserve; repeat' split
  all_goals simp
@[simp] theorem freezeObserve_sessionNo (rw : Bool) (s : State) : (freezeObserve rw s).sessionNo = s.sessionNo := by
  unfold freezeObserve; repeat' split
  all_goals simp
@[simp] theorem freezeObserve_cfg (rw : Bool) (s : State) : (freezeObserve rw s).cfg = s.cfg := by
  unfold freezeObserve; repeat' split
  all_goals simp
@[simp] theorem freezeObserve_inputs (rw : Bool) (s : State) : (freezeObserve rw s).inputs = s.inputs := by
  unfold freezeObserve; repeat' split
  all_goals simp
@[simp] theorem freezeObserve_loadError (rw : Bool) (s : State) : (freezeObserve rw s).loadError = s.loadError := by
  unfold freezeObserve; repeat' split
  all_goals simp
@[simp] theorem freezeObserve_stallOut (rw : Bool) (s : State) : (freezeObserve rw s).stallOut = s.stallOut := by
  unfold freezeObserve; repeat' split
  all_goals simp
@[simp] theorem freezeObserve_drive (rw : Bool) (s : State) : (freezeObserve rw s).drive = s.drive := by
  unfold freezeObserve; repeat' split
  all_goals simp
@[simp] theorem freezeObserve_rst (rw : Bool) (s : State) : (freezeObserve rw s).rst = s.rst := by
  unfold freezeObserve; repeat' split
  all_goals simp
@[simp] theorem freezeObserve_capCnt (rw : Bool) (s : State) : (freezeObserve rw s).capCnt = s.capCnt := by
  unfold freezeObserve; repeat' split
  all_goals simp
@[simp] theorem freezeObserve_flash (rw : Bool) (s : State) : (freezeObserve rw s).flash = s.flash := by
  unfold freezeObserve; repeat' split
  all_goals simp
@[simp] theorem freezeObserve_eepi (rw : Bool) (s : State) : (freezeObserve rw s).eepi = s.eepi := by
  unfold freezeObserve; repeat' split
  all_goals simp
@[simp] theorem freezeObserve_rom (rw : Bool) (s : State) : (freezeObserve rw s).rom = s.rom := by
  unfold freezeObserve; repeat' split
  all_goals simp
@[simp] theorem freezeObserve_ram (rw : Bool) (s : State) : (freezeObserve rw s).ram = s.ram := by
  unfold freezeObserve; repeat' split
  all_goals simp
@[simp] theorem freezeObserve_eep (rw : Bool) (s : State) : (freezeObserve rw s).eep = s.eep := by
  unfold freezeObserve; repeat' split
  all_goals simp
@[simp] theorem freezeObserve_shadow (rw : Bool) (s : State) : (freezeObserve rw s).shadow = s.shadow := by
  unfold freezeObserve; repeat' split
  all_goals simp

/-! ### Frame of `afterOperation`: as `freezeObserve` -/

@[simp] theorem afterOperation_active (S : BusCycleSample) (s : State) : (afterOperation S s).active = s.active := by
  unfold afterOperation; repeat' split
  all_goals simp
@[simp] theorem afterOperation_sessionNo (S : BusCycleSample) (s : State) : (afterOperation S s).sessionNo = s.sessionNo :=
    by
  unfold afterOperation; repeat' split
  all_goals simp
@[simp] theorem afterOperation_cfg (S : BusCycleSample) (s : State) : (afterOperation S s).cfg = s.cfg := by
  unfold afterOperation; repeat' split
  all_goals simp
@[simp] theorem afterOperation_inputs (S : BusCycleSample) (s : State) : (afterOperation S s).inputs = s.inputs := by
  unfold afterOperation; repeat' split
  all_goals simp
@[simp] theorem afterOperation_loadError (S : BusCycleSample) (s : State) : (afterOperation S s).loadError = s.loadError :=
    by
  unfold afterOperation; repeat' split
  all_goals simp
@[simp] theorem afterOperation_stallOut (S : BusCycleSample) (s : State) : (afterOperation S s).stallOut = s.stallOut :=
    by
  unfold afterOperation; repeat' split
  all_goals simp
@[simp] theorem afterOperation_drive (S : BusCycleSample) (s : State) : (afterOperation S s).drive = s.drive := by
  unfold afterOperation; repeat' split
  all_goals simp
@[simp] theorem afterOperation_rst (S : BusCycleSample) (s : State) : (afterOperation S s).rst = s.rst := by
  unfold afterOperation; repeat' split
  all_goals simp
@[simp] theorem afterOperation_capCnt (S : BusCycleSample) (s : State) : (afterOperation S s).capCnt = s.capCnt := by
  unfold afterOperation; repeat' split
  all_goals simp
@[simp] theorem afterOperation_flash (S : BusCycleSample) (s : State) : (afterOperation S s).flash = s.flash := by
  unfold afterOperation; repeat' split
  all_goals simp
@[simp] theorem afterOperation_eepi (S : BusCycleSample) (s : State) : (afterOperation S s).eepi = s.eepi := by
  unfold afterOperation; repeat' split
  all_goals simp
@[simp] theorem afterOperation_rom (S : BusCycleSample) (s : State) : (afterOperation S s).rom = s.rom := by
  unfold afterOperation; repeat' split
  all_goals simp
@[simp] theorem afterOperation_ram (S : BusCycleSample) (s : State) : (afterOperation S s).ram = s.ram := by
  unfold afterOperation; repeat' split
  all_goals simp
@[simp] theorem afterOperation_eep (S : BusCycleSample) (s : State) : (afterOperation S s).eep = s.eep := by
  unfold afterOperation; repeat' split
  all_goals simp
@[simp] theorem afterOperation_shadow (S : BusCycleSample) (s : State) : (afterOperation S s).shadow = s.shadow := by
  unfold afterOperation; repeat' split
  all_goals simp

/-! ### Frame of `reinit`: everything but the stores, the session and ResetState -/

@[simp] theorem reinit_active (s : State) : (reinit s).active = s.active := by
  unfold reinit; repeat' split
  all_goals rfl
@[simp] theorem reinit_sessionNo (s : State) : (reinit s).sessionNo = s.sessionNo := by
  unfold reinit; repeat' split
  all_goals rfl
@[simp] theorem reinit_cfg (s : State) : (reinit s).cfg = s.cfg := by
  unfold reinit; repeat' split
  all_goals rfl
@[simp] theorem reinit_inputs (s : State) : (reinit s).inputs = s.inputs := by
  unfold reinit; repeat' split
  all_goals rfl
@[simp] theorem reinit_loadError (s : State) : (reinit s).loadError = s.loadError := by
  unfold reinit; repeat' split
  all_goals rfl
@[simp] theorem reinit_drive (s : State) : (reinit s).drive = s.drive := by
  unfold reinit; repeat' split
  all_goals rfl
@[simp] theorem reinit_rst (s : State) : (reinit s).rst = s.rst := by
  unfold reinit; repeat' split
  all_goals rfl
@[simp] theorem reinit_rom (s : State) : (reinit s).rom = s.rom := by
  unfold reinit; repeat' split
  all_goals rfl
@[simp] theorem reinit_ram (s : State) : (reinit s).ram = s.ram := by
  unfold reinit; repeat' split
  all_goals rfl
@[simp] theorem reinit_eep (s : State) : (reinit s).eep = s.eep := by
  unfold reinit; repeat' split
  all_goals rfl
@[simp] theorem reinit_shadow (s : State) : (reinit s).shadow = s.shadow := by
  unfold reinit; repeat' split
  all_goals rfl

/-! ### Frame of `resetTick`: as `reinit`, with ResetState -/

@[simp] theorem resetTick_active (r : Bool) (s : State) : (resetTick r s).active = s.active := by
  unfold resetTick; repeat' split
  all_goals simp
@[simp] theorem resetTick_sessionNo (r : Bool) (s : State) : (resetTick r s).sessionNo = s.sessionNo := by
  unfold resetTick; repeat' split
  all_goals simp
@[simp] theorem resetTick_cfg (r : Bool) (s : State) : (resetTick r s).cfg = s.cfg := by
  unfold resetTick; repeat' split
  all_goals simp
@[simp] theorem resetTick_inputs (r : Bool) (s : State) : (resetTick r s).inputs = s.inputs := by
  unfold resetTick; repeat' split
  all_goals simp
@[simp] theorem resetTick_loadError (r : Bool) (s : State) : (resetTick r s).loadError = s.loadError := by
  unfold resetTick; repeat' split
  all_goals simp
@[simp] theorem resetTick_drive (r : Bool) (s : State) : (resetTick r s).drive = s.drive := by
  unfold resetTick; repeat' split
  all_goals simp
@[simp] theorem resetTick_rom (r : Bool) (s : State) : (resetTick r s).rom = s.rom := by
  unfold resetTick; repeat' split
  all_goals simp
@[simp] theorem resetTick_ram (r : Bool) (s : State) : (resetTick r s).ram = s.ram := by
  unfold resetTick; repeat' split
  all_goals simp
@[simp] theorem resetTick_eep (r : Bool) (s : State) : (resetTick r s).eep = s.eep := by
  unfold resetTick; repeat' split
  all_goals simp
@[simp] theorem resetTick_shadow (r : Bool) (s : State) : (resetTick r s).shadow = s.shadow := by
  unfold resetTick; repeat' split
  all_goals simp

/-! ### Frame of `ticks`: as `resetTick` -/

@[simp] theorem ticks_active (env : Env) (s : State) : (ticks env s).active = s.active := by simp [ticks]
@[simp] theorem ticks_sessionNo (env : Env) (s : State) : (ticks env s).sessionNo = s.sessionNo := by simp [ticks]
@[simp] theorem ticks_cfg (env : Env) (s : State) : (ticks env s).cfg = s.cfg := by simp [ticks]
@[simp] theorem ticks_inputs (env : Env) (s : State) : (ticks env s).inputs = s.inputs := by simp [ticks]
@[simp] theorem ticks_loadError (env : Env) (s : State) : (ticks env s).loadError = s.loadError := by simp [ticks]
@[simp] theorem ticks_drive (env : Env) (s : State) : (ticks env s).drive = s.drive := by simp [ticks]
@[simp] theorem ticks_rom (env : Env) (s : State) : (ticks env s).rom = s.rom := by simp [ticks]
@[simp] theorem ticks_ram (env : Env) (s : State) : (ticks env s).ram = s.ram := by simp [ticks]
@[simp] theorem ticks_eep (env : Env) (s : State) : (ticks env s).eep = s.eep := by simp [ticks]
@[simp] theorem ticks_shadow (env : Env) (s : State) : (ticks env s).shadow = s.shadow := by simp [ticks]

/-! ### Frame of `memWrite .rom`: that store changes -/

@[simp] theorem memWrite_rom_active (a : Nat) (v : Byte) (s : State) : (memWrite .rom a v s).active = s.active := rfl
@[simp] theorem memWrite_rom_sessionNo (a : Nat) (v : Byte) (s : State) : (memWrite .rom a v s).sessionNo = s.sessionNo :=
    rfl
@[simp] theorem memWrite_rom_cfg (a : Nat) (v : Byte) (s : State) : (memWrite .rom a v s).cfg = s.cfg := rfl
@[simp] theorem memWrite_rom_inputs (a : Nat) (v : Byte) (s : State) : (memWrite .rom a v s).inputs = s.inputs := rfl
@[simp] theorem memWrite_rom_loadError (a : Nat) (v : Byte) (s : State) : (memWrite .rom a v s).loadError = s.loadError :=
    rfl
@[simp] theorem memWrite_rom_reg (a : Nat) (v : Byte) (s : State) : (memWrite .rom a v s).reg = s.reg := rfl
@[simp] theorem memWrite_rom_map (a : Nat) (v : Byte) (s : State) : (memWrite .rom a v s).map = s.map := rfl
@[simp] theorem memWrite_rom_nmiOut (a : Nat) (v : Byte) (s : State) : (memWrite .rom a v s).nmiOut = s.nmiOut := rfl
@[simp] theorem memWrite_rom_stallOut (a : Nat) (v : Byte) (s : State) : (memWrite .rom a v s).stallOut = s.stallOut :=
    rfl
@[simp] theorem memWrite_rom_drive (a : Nat) (v : Byte) (s : State) : (memWrite .rom a v s).drive = s.drive := rfl
@[simp] theorem memWrite_rom_events (a : Nat) (v : Byte) (s : State) : (memWrite .rom a v s).events = s.events := rfl
@[simp] theorem memWrite_rom_dma (a : Nat) (v : Byte) (s : State) : (memWrite .rom a v s).dma = s.dma := rfl
@[simp] theorem memWrite_rom_rst (a : Nat) (v : Byte) (s : State) : (memWrite .rom a v s).rst = s.rst := rfl
@[simp] theorem memWrite_rom_frz (a : Nat) (v : Byte) (s : State) : (memWrite .rom a v s).frz = s.frz := rfl
@[simp] theorem memWrite_rom_capCnt (a : Nat) (v : Byte) (s : State) : (memWrite .rom a v s).capCnt = s.capCnt := rfl
@[simp] theorem memWrite_rom_flash (a : Nat) (v : Byte) (s : State) : (memWrite .rom a v s).flash = s.flash := rfl
@[simp] theorem memWrite_rom_eepi (a : Nat) (v : Byte) (s : State) : (memWrite .rom a v s).eepi = s.eepi := rfl
@[simp] theorem memWrite_rom_ram (a : Nat) (v : Byte) (s : State) : (memWrite .rom a v s).ram = s.ram := rfl
@[simp] theorem memWrite_rom_eep (a : Nat) (v : Byte) (s : State) : (memWrite .rom a v s).eep = s.eep := rfl
@[simp] theorem memWrite_rom_shadow (a : Nat) (v : Byte) (s : State) : (memWrite .rom a v s).shadow = s.shadow := rfl
@[simp] theorem memWrite_rom_resident (a : Nat) (v : Byte) (s : State) : (memWrite .rom a v s).resident = s.resident :=
    rfl

/-! ### Frame of `memWrite .ram`: that store changes -/

@[simp] theorem memWrite_ram_active (a : Nat) (v : Byte) (s : State) : (memWrite .ram a v s).active = s.active := rfl
@[simp] theorem memWrite_ram_sessionNo (a : Nat) (v : Byte) (s : State) : (memWrite .ram a v s).sessionNo = s.sessionNo :=
    rfl
@[simp] theorem memWrite_ram_cfg (a : Nat) (v : Byte) (s : State) : (memWrite .ram a v s).cfg = s.cfg := rfl
@[simp] theorem memWrite_ram_inputs (a : Nat) (v : Byte) (s : State) : (memWrite .ram a v s).inputs = s.inputs := rfl
@[simp] theorem memWrite_ram_loadError (a : Nat) (v : Byte) (s : State) : (memWrite .ram a v s).loadError = s.loadError :=
    rfl
@[simp] theorem memWrite_ram_reg (a : Nat) (v : Byte) (s : State) : (memWrite .ram a v s).reg = s.reg := rfl
@[simp] theorem memWrite_ram_map (a : Nat) (v : Byte) (s : State) : (memWrite .ram a v s).map = s.map := rfl
@[simp] theorem memWrite_ram_nmiOut (a : Nat) (v : Byte) (s : State) : (memWrite .ram a v s).nmiOut = s.nmiOut := rfl
@[simp] theorem memWrite_ram_stallOut (a : Nat) (v : Byte) (s : State) : (memWrite .ram a v s).stallOut = s.stallOut :=
    rfl
@[simp] theorem memWrite_ram_drive (a : Nat) (v : Byte) (s : State) : (memWrite .ram a v s).drive = s.drive := rfl
@[simp] theorem memWrite_ram_events (a : Nat) (v : Byte) (s : State) : (memWrite .ram a v s).events = s.events := rfl
@[simp] theorem memWrite_ram_dma (a : Nat) (v : Byte) (s : State) : (memWrite .ram a v s).dma = s.dma := rfl
@[simp] theorem memWrite_ram_rst (a : Nat) (v : Byte) (s : State) : (memWrite .ram a v s).rst = s.rst := rfl
@[simp] theorem memWrite_ram_frz (a : Nat) (v : Byte) (s : State) : (memWrite .ram a v s).frz = s.frz := rfl
@[simp] theorem memWrite_ram_capCnt (a : Nat) (v : Byte) (s : State) : (memWrite .ram a v s).capCnt = s.capCnt := rfl
@[simp] theorem memWrite_ram_flash (a : Nat) (v : Byte) (s : State) : (memWrite .ram a v s).flash = s.flash := rfl
@[simp] theorem memWrite_ram_eepi (a : Nat) (v : Byte) (s : State) : (memWrite .ram a v s).eepi = s.eepi := rfl
@[simp] theorem memWrite_ram_rom (a : Nat) (v : Byte) (s : State) : (memWrite .ram a v s).rom = s.rom := rfl
@[simp] theorem memWrite_ram_eep (a : Nat) (v : Byte) (s : State) : (memWrite .ram a v s).eep = s.eep := rfl
@[simp] theorem memWrite_ram_shadow (a : Nat) (v : Byte) (s : State) : (memWrite .ram a v s).shadow = s.shadow := rfl
@[simp] theorem memWrite_ram_resident (a : Nat) (v : Byte) (s : State) : (memWrite .ram a v s).resident = s.resident :=
    rfl

/-! ### Frame of `memWrite .eep`: that store changes -/

@[simp] theorem memWrite_eep_active (a : Nat) (v : Byte) (s : State) : (memWrite .eep a v s).active = s.active := rfl
@[simp] theorem memWrite_eep_sessionNo (a : Nat) (v : Byte) (s : State) : (memWrite .eep a v s).sessionNo = s.sessionNo :=
    rfl
@[simp] theorem memWrite_eep_cfg (a : Nat) (v : Byte) (s : State) : (memWrite .eep a v s).cfg = s.cfg := rfl
@[simp] theorem memWrite_eep_inputs (a : Nat) (v : Byte) (s : State) : (memWrite .eep a v s).inputs = s.inputs := rfl
@[simp] theorem memWrite_eep_loadError (a : Nat) (v : Byte) (s : State) : (memWrite .eep a v s).loadError = s.loadError :=
    rfl
@[simp] theorem memWrite_eep_reg (a : Nat) (v : Byte) (s : State) : (memWrite .eep a v s).reg = s.reg := rfl
@[simp] theorem memWrite_eep_map (a : Nat) (v : Byte) (s : State) : (memWrite .eep a v s).map = s.map := rfl
@[simp] theorem memWrite_eep_nmiOut (a : Nat) (v : Byte) (s : State) : (memWrite .eep a v s).nmiOut = s.nmiOut := rfl
@[simp] theorem memWrite_eep_stallOut (a : Nat) (v : Byte) (s : State) : (memWrite .eep a v s).stallOut = s.stallOut :=
    rfl
@[simp] theorem memWrite_eep_drive (a : Nat) (v : Byte) (s : State) : (memWrite .eep a v s).drive = s.drive := rfl
@[simp] theorem memWrite_eep_events (a : Nat) (v : Byte) (s : State) : (memWrite .eep a v s).events = s.events := rfl
@[simp] theorem memWrite_eep_dma (a : Nat) (v : Byte) (s : State) : (memWrite .eep a v s).dma = s.dma := rfl
@[simp] theorem memWrite_eep_rst (a : Nat) (v : Byte) (s : State) : (memWrite .eep a v s).rst = s.rst := rfl
@[simp] theorem memWrite_eep_frz (a : Nat) (v : Byte) (s : State) : (memWrite .eep a v s).frz = s.frz := rfl
@[simp] theorem memWrite_eep_capCnt (a : Nat) (v : Byte) (s : State) : (memWrite .eep a v s).capCnt = s.capCnt := rfl
@[simp] theorem memWrite_eep_flash (a : Nat) (v : Byte) (s : State) : (memWrite .eep a v s).flash = s.flash := rfl
@[simp] theorem memWrite_eep_eepi (a : Nat) (v : Byte) (s : State) : (memWrite .eep a v s).eepi = s.eepi := rfl
@[simp] theorem memWrite_eep_rom (a : Nat) (v : Byte) (s : State) : (memWrite .eep a v s).rom = s.rom := rfl
@[simp] theorem memWrite_eep_ram (a : Nat) (v : Byte) (s : State) : (memWrite .eep a v s).ram = s.ram := rfl
@[simp] theorem memWrite_eep_shadow (a : Nat) (v : Byte) (s : State) : (memWrite .eep a v s).shadow = s.shadow := rfl
@[simp] theorem memWrite_eep_resident (a : Nat) (v : Byte) (s : State) : (memWrite .eep a v s).resident = s.resident :=
    rfl

/-! ### Frame of `memWrite .shadow`: that store changes -/

@[simp] theorem memWrite_shadow_active (a : Nat) (v : Byte) (s : State) : (memWrite .shadow a v s).active = s.active :=
    rfl
@[simp] theorem memWrite_shadow_sessionNo (a : Nat) (v : Byte) (s : State) : (memWrite .shadow a v s).sessionNo = s.sessionNo :=
    rfl
@[simp] theorem memWrite_shadow_cfg (a : Nat) (v : Byte) (s : State) : (memWrite .shadow a v s).cfg = s.cfg := rfl
@[simp] theorem memWrite_shadow_inputs (a : Nat) (v : Byte) (s : State) : (memWrite .shadow a v s).inputs = s.inputs :=
    rfl
@[simp] theorem memWrite_shadow_loadError (a : Nat) (v : Byte) (s : State) : (memWrite .shadow a v s).loadError = s.loadError :=
    rfl
@[simp] theorem memWrite_shadow_reg (a : Nat) (v : Byte) (s : State) : (memWrite .shadow a v s).reg = s.reg := rfl
@[simp] theorem memWrite_shadow_map (a : Nat) (v : Byte) (s : State) : (memWrite .shadow a v s).map = s.map := rfl
@[simp] theorem memWrite_shadow_nmiOut (a : Nat) (v : Byte) (s : State) : (memWrite .shadow a v s).nmiOut = s.nmiOut :=
    rfl
@[simp] theorem memWrite_shadow_stallOut (a : Nat) (v : Byte) (s : State) : (memWrite .shadow a v s).stallOut = s.stallOut :=
    rfl
@[simp] theorem memWrite_shadow_drive (a : Nat) (v : Byte) (s : State) : (memWrite .shadow a v s).drive = s.drive :=
    rfl
@[simp] theorem memWrite_shadow_events (a : Nat) (v : Byte) (s : State) : (memWrite .shadow a v s).events = s.events :=
    rfl
@[simp] theorem memWrite_shadow_dma (a : Nat) (v : Byte) (s : State) : (memWrite .shadow a v s).dma = s.dma := rfl
@[simp] theorem memWrite_shadow_rst (a : Nat) (v : Byte) (s : State) : (memWrite .shadow a v s).rst = s.rst := rfl
@[simp] theorem memWrite_shadow_frz (a : Nat) (v : Byte) (s : State) : (memWrite .shadow a v s).frz = s.frz := rfl
@[simp] theorem memWrite_shadow_capCnt (a : Nat) (v : Byte) (s : State) : (memWrite .shadow a v s).capCnt = s.capCnt :=
    rfl
@[simp] theorem memWrite_shadow_flash (a : Nat) (v : Byte) (s : State) : (memWrite .shadow a v s).flash = s.flash :=
    rfl
@[simp] theorem memWrite_shadow_eepi (a : Nat) (v : Byte) (s : State) : (memWrite .shadow a v s).eepi = s.eepi := rfl
@[simp] theorem memWrite_shadow_rom (a : Nat) (v : Byte) (s : State) : (memWrite .shadow a v s).rom = s.rom := rfl
@[simp] theorem memWrite_shadow_ram (a : Nat) (v : Byte) (s : State) : (memWrite .shadow a v s).ram = s.ram := rfl
@[simp] theorem memWrite_shadow_eep (a : Nat) (v : Byte) (s : State) : (memWrite .shadow a v s).eep = s.eep := rfl
@[simp] theorem memWrite_shadow_resident (a : Nat) (v : Byte) (s : State) : (memWrite .shadow a v s).resident = s.resident :=
    rfl

/-! ### Frame of `recordShadow`: the shadow bytes change -/

@[simp] theorem recordShadow_active (S : BusCycleSample) (s : State) : (recordShadow S s).active = s.active := by
  unfold recordShadow; repeat' split
  all_goals simp
@[simp] theorem recordShadow_sessionNo (S : BusCycleSample) (s : State) : (recordShadow S s).sessionNo = s.sessionNo :=
    by
  unfold recordShadow; repeat' split
  all_goals simp
@[simp] theorem recordShadow_cfg (S : BusCycleSample) (s : State) : (recordShadow S s).cfg = s.cfg := by
  unfold recordShadow; repeat' split
  all_goals simp
@[simp] theorem recordShadow_inputs (S : BusCycleSample) (s : State) : (recordShadow S s).inputs = s.inputs := by
  unfold recordShadow; repeat' split
  all_goals simp
@[simp] theorem recordShadow_loadError (S : BusCycleSample) (s : State) : (recordShadow S s).loadError = s.loadError :=
    by
  unfold recordShadow; repeat' split
  all_goals simp
@[simp] theorem recordShadow_reg (S : BusCycleSample) (s : State) : (recordShadow S s).reg = s.reg := by
  unfold recordShadow; repeat' split
  all_goals simp
@[simp] theorem recordShadow_map (S : BusCycleSample) (s : State) : (recordShadow S s).map = s.map := by
  unfold recordShadow; repeat' split
  all_goals simp
@[simp] theorem recordShadow_nmiOut (S : BusCycleSample) (s : State) : (recordShadow S s).nmiOut = s.nmiOut := by
  unfold recordShadow; repeat' split
  all_goals simp
@[simp] theorem recordShadow_stallOut (S : BusCycleSample) (s : State) : (recordShadow S s).stallOut = s.stallOut :=
    by
  unfold recordShadow; repeat' split
  all_goals simp
@[simp] theorem recordShadow_drive (S : BusCycleSample) (s : State) : (recordShadow S s).drive = s.drive := by
  unfold recordShadow; repeat' split
  all_goals simp
@[simp] theorem recordShadow_events (S : BusCycleSample) (s : State) : (recordShadow S s).events = s.events := by
  unfold recordShadow; repeat' split
  all_goals simp
@[simp] theorem recordShadow_dma (S : BusCycleSample) (s : State) : (recordShadow S s).dma = s.dma := by
  unfold recordShadow; repeat' split
  all_goals simp
@[simp] theorem recordShadow_rst (S : BusCycleSample) (s : State) : (recordShadow S s).rst = s.rst := by
  unfold recordShadow; repeat' split
  all_goals simp
@[simp] theorem recordShadow_frz (S : BusCycleSample) (s : State) : (recordShadow S s).frz = s.frz := by
  unfold recordShadow; repeat' split
  all_goals simp
@[simp] theorem recordShadow_capCnt (S : BusCycleSample) (s : State) : (recordShadow S s).capCnt = s.capCnt := by
  unfold recordShadow; repeat' split
  all_goals simp
@[simp] theorem recordShadow_flash (S : BusCycleSample) (s : State) : (recordShadow S s).flash = s.flash := by
  unfold recordShadow; repeat' split
  all_goals simp
@[simp] theorem recordShadow_eepi (S : BusCycleSample) (s : State) : (recordShadow S s).eepi = s.eepi := by
  unfold recordShadow; repeat' split
  all_goals simp
@[simp] theorem recordShadow_rom (S : BusCycleSample) (s : State) : (recordShadow S s).rom = s.rom := by
  unfold recordShadow; repeat' split
  all_goals simp
@[simp] theorem recordShadow_ram (S : BusCycleSample) (s : State) : (recordShadow S s).ram = s.ram := by
  unfold recordShadow; repeat' split
  all_goals simp
@[simp] theorem recordShadow_eep (S : BusCycleSample) (s : State) : (recordShadow S s).eep = s.eep := by
  unfold recordShadow; repeat' split
  all_goals simp
@[simp] theorem recordShadow_resident (S : BusCycleSample) (s : State) : (recordShadow S s).resident = s.resident :=
    by
  unfold recordShadow; repeat' split
  all_goals simp

/-! ### Frame of `ramWrite`: the RAM changes -/

@[simp] theorem ramWrite_active (i : Nat) (d : Byte) (s : State) : (ramWrite i d s).active = s.active := by
  unfold ramWrite; repeat' split
  all_goals simp
@[simp] theorem ramWrite_sessionNo (i : Nat) (d : Byte) (s : State) : (ramWrite i d s).sessionNo = s.sessionNo := by
  unfold ramWrite; repeat' split
  all_goals simp
@[simp] theorem ramWrite_cfg (i : Nat) (d : Byte) (s : State) : (ramWrite i d s).cfg = s.cfg := by
  unfold ramWrite; repeat' split
  all_goals simp
@[simp] theorem ramWrite_inputs (i : Nat) (d : Byte) (s : State) : (ramWrite i d s).inputs = s.inputs := by
  unfold ramWrite; repeat' split
  all_goals simp
@[simp] theorem ramWrite_loadError (i : Nat) (d : Byte) (s : State) : (ramWrite i d s).loadError = s.loadError := by
  unfold ramWrite; repeat' split
  all_goals simp
@[simp] theorem ramWrite_reg (i : Nat) (d : Byte) (s : State) : (ramWrite i d s).reg = s.reg := by
  unfold ramWrite; repeat' split
  all_goals simp
@[simp] theorem ramWrite_map (i : Nat) (d : Byte) (s : State) : (ramWrite i d s).map = s.map := by
  unfold ramWrite; repeat' split
  all_goals simp
@[simp] theorem ramWrite_nmiOut (i : Nat) (d : Byte) (s : State) : (ramWrite i d s).nmiOut = s.nmiOut := by
  unfold ramWrite; repeat' split
  all_goals simp
@[simp] theorem ramWrite_stallOut (i : Nat) (d : Byte) (s : State) : (ramWrite i d s).stallOut = s.stallOut := by
  unfold ramWrite; repeat' split
  all_goals simp
@[simp] theorem ramWrite_drive (i : Nat) (d : Byte) (s : State) : (ramWrite i d s).drive = s.drive := by
  unfold ramWrite; repeat' split
  all_goals simp
@[simp] theorem ramWrite_events (i : Nat) (d : Byte) (s : State) : (ramWrite i d s).events = s.events := by
  unfold ramWrite; repeat' split
  all_goals simp
@[simp] theorem ramWrite_dma (i : Nat) (d : Byte) (s : State) : (ramWrite i d s).dma = s.dma := by
  unfold ramWrite; repeat' split
  all_goals simp
@[simp] theorem ramWrite_rst (i : Nat) (d : Byte) (s : State) : (ramWrite i d s).rst = s.rst := by
  unfold ramWrite; repeat' split
  all_goals simp
@[simp] theorem ramWrite_frz (i : Nat) (d : Byte) (s : State) : (ramWrite i d s).frz = s.frz := by
  unfold ramWrite; repeat' split
  all_goals simp
@[simp] theorem ramWrite_capCnt (i : Nat) (d : Byte) (s : State) : (ramWrite i d s).capCnt = s.capCnt := by
  unfold ramWrite; repeat' split
  all_goals simp
@[simp] theorem ramWrite_flash (i : Nat) (d : Byte) (s : State) : (ramWrite i d s).flash = s.flash := by
  unfold ramWrite; repeat' split
  all_goals simp
@[simp] theorem ramWrite_eepi (i : Nat) (d : Byte) (s : State) : (ramWrite i d s).eepi = s.eepi := by
  unfold ramWrite; repeat' split
  all_goals simp
@[simp] theorem ramWrite_rom (i : Nat) (d : Byte) (s : State) : (ramWrite i d s).rom = s.rom := by
  unfold ramWrite; repeat' split
  all_goals simp
@[simp] theorem ramWrite_eep (i : Nat) (d : Byte) (s : State) : (ramWrite i d s).eep = s.eep := by
  unfold ramWrite; repeat' split
  all_goals simp
@[simp] theorem ramWrite_shadow (i : Nat) (d : Byte) (s : State) : (ramWrite i d s).shadow = s.shadow := by
  unfold ramWrite; repeat' split
  all_goals simp
@[simp] theorem ramWrite_resident (i : Nat) (d : Byte) (s : State) : (ramWrite i d s).resident = s.resident := by
  unfold ramWrite; repeat' split
  all_goals simp

/-! ### Frame of `setFlash`: the command state changes -/

@[simp] theorem setFlash_active (w : RomWindow) (f : FlashState) (s : State) : (setFlash w f s).active = s.active :=
    by cases w <;> rfl
@[simp] theorem setFlash_sessionNo (w : RomWindow) (f : FlashState) (s : State) : (setFlash w f s).sessionNo = s.sessionNo :=
    by cases w <;> rfl
@[simp] theorem setFlash_cfg (w : RomWindow) (f : FlashState) (s : State) : (setFlash w f s).cfg = s.cfg :=
    by cases w <;> rfl
@[simp] theorem setFlash_inputs (w : RomWindow) (f : FlashState) (s : State) : (setFlash w f s).inputs = s.inputs :=
    by cases w <;> rfl
@[simp] theorem setFlash_loadError (w : RomWindow) (f : FlashState) (s : State) : (setFlash w f s).loadError = s.loadError :=
    by cases w <;> rfl
@[simp] theorem setFlash_reg (w : RomWindow) (f : FlashState) (s : State) : (setFlash w f s).reg = s.reg :=
    by cases w <;> rfl
@[simp] theorem setFlash_map (w : RomWindow) (f : FlashState) (s : State) : (setFlash w f s).map = s.map :=
    by cases w <;> rfl
@[simp] theorem setFlash_nmiOut (w : RomWindow) (f : FlashState) (s : State) : (setFlash w f s).nmiOut = s.nmiOut :=
    by cases w <;> rfl
@[simp] theorem setFlash_stallOut (w : RomWindow) (f : FlashState) (s : State) : (setFlash w f s).stallOut = s.stallOut :=
    by cases w <;> rfl
@[simp] theorem setFlash_drive (w : RomWindow) (f : FlashState) (s : State) : (setFlash w f s).drive = s.drive :=
    by cases w <;> rfl
@[simp] theorem setFlash_events (w : RomWindow) (f : FlashState) (s : State) : (setFlash w f s).events = s.events :=
    by cases w <;> rfl
@[simp] theorem setFlash_dma (w : RomWindow) (f : FlashState) (s : State) : (setFlash w f s).dma = s.dma :=
    by cases w <;> rfl
@[simp] theorem setFlash_rst (w : RomWindow) (f : FlashState) (s : State) : (setFlash w f s).rst = s.rst :=
    by cases w <;> rfl
@[simp] theorem setFlash_frz (w : RomWindow) (f : FlashState) (s : State) : (setFlash w f s).frz = s.frz :=
    by cases w <;> rfl
@[simp] theorem setFlash_capCnt (w : RomWindow) (f : FlashState) (s : State) : (setFlash w f s).capCnt = s.capCnt :=
    by cases w <;> rfl
@[simp] theorem setFlash_eepi (w : RomWindow) (f : FlashState) (s : State) : (setFlash w f s).eepi = s.eepi :=
    by cases w <;> rfl
@[simp] theorem setFlash_rom (w : RomWindow) (f : FlashState) (s : State) : (setFlash w f s).rom = s.rom :=
    by cases w <;> rfl
@[simp] theorem setFlash_ram (w : RomWindow) (f : FlashState) (s : State) : (setFlash w f s).ram = s.ram :=
    by cases w <;> rfl
@[simp] theorem setFlash_eep (w : RomWindow) (f : FlashState) (s : State) : (setFlash w f s).eep = s.eep :=
    by cases w <;> rfl
@[simp] theorem setFlash_shadow (w : RomWindow) (f : FlashState) (s : State) : (setFlash w f s).shadow = s.shadow :=
    by cases w <;> rfl
@[simp] theorem setFlash_resident (w : RomWindow) (f : FlashState) (s : State) : (setFlash w f s).resident = s.resident :=
    by cases w <;> rfl

/-! ### Frame of `flashProgram`: the ROM and the events change -/

@[simp] theorem flashProgram_active (bank : Byte) (w : RomWindow) (off : Offset) (v : Byte) (s : State) : (flashProgram bank w off v s).active = s.active :=
    rfl
@[simp] theorem flashProgram_sessionNo (bank : Byte) (w : RomWindow) (off : Offset) (v : Byte) (s : State) : (flashProgram bank w off v s).sessionNo = s.sessionNo :=
    rfl
@[simp] theorem flashProgram_cfg (bank : Byte) (w : RomWindow) (off : Offset) (v : Byte) (s : State) : (flashProgram bank w off v s).cfg = s.cfg :=
    rfl
@[simp] theorem flashProgram_inputs (bank : Byte) (w : RomWindow) (off : Offset) (v : Byte) (s : State) : (flashProgram bank w off v s).inputs = s.inputs :=
    rfl
@[simp] theorem flashProgram_loadError (bank : Byte) (w : RomWindow) (off : Offset) (v : Byte) (s : State) : (flashProgram bank w off v s).loadError = s.loadError :=
    rfl
@[simp] theorem flashProgram_reg (bank : Byte) (w : RomWindow) (off : Offset) (v : Byte) (s : State) : (flashProgram bank w off v s).reg = s.reg :=
    rfl
@[simp] theorem flashProgram_map (bank : Byte) (w : RomWindow) (off : Offset) (v : Byte) (s : State) : (flashProgram bank w off v s).map = s.map :=
    rfl
@[simp] theorem flashProgram_nmiOut (bank : Byte) (w : RomWindow) (off : Offset) (v : Byte) (s : State) : (flashProgram bank w off v s).nmiOut = s.nmiOut :=
    rfl
@[simp] theorem flashProgram_stallOut (bank : Byte) (w : RomWindow) (off : Offset) (v : Byte) (s : State) : (flashProgram bank w off v s).stallOut = s.stallOut :=
    rfl
@[simp] theorem flashProgram_drive (bank : Byte) (w : RomWindow) (off : Offset) (v : Byte) (s : State) : (flashProgram bank w off v s).drive = s.drive :=
    rfl
@[simp] theorem flashProgram_dma (bank : Byte) (w : RomWindow) (off : Offset) (v : Byte) (s : State) : (flashProgram bank w off v s).dma = s.dma :=
    rfl
@[simp] theorem flashProgram_rst (bank : Byte) (w : RomWindow) (off : Offset) (v : Byte) (s : State) : (flashProgram bank w off v s).rst = s.rst :=
    rfl
@[simp] theorem flashProgram_frz (bank : Byte) (w : RomWindow) (off : Offset) (v : Byte) (s : State) : (flashProgram bank w off v s).frz = s.frz :=
    rfl
@[simp] theorem flashProgram_capCnt (bank : Byte) (w : RomWindow) (off : Offset) (v : Byte) (s : State) : (flashProgram bank w off v s).capCnt = s.capCnt :=
    rfl
@[simp] theorem flashProgram_flash (bank : Byte) (w : RomWindow) (off : Offset) (v : Byte) (s : State) : (flashProgram bank w off v s).flash = s.flash :=
    rfl
@[simp] theorem flashProgram_eepi (bank : Byte) (w : RomWindow) (off : Offset) (v : Byte) (s : State) : (flashProgram bank w off v s).eepi = s.eepi :=
    rfl
@[simp] theorem flashProgram_ram (bank : Byte) (w : RomWindow) (off : Offset) (v : Byte) (s : State) : (flashProgram bank w off v s).ram = s.ram :=
    rfl
@[simp] theorem flashProgram_eep (bank : Byte) (w : RomWindow) (off : Offset) (v : Byte) (s : State) : (flashProgram bank w off v s).eep = s.eep :=
    rfl
@[simp] theorem flashProgram_shadow (bank : Byte) (w : RomWindow) (off : Offset) (v : Byte) (s : State) : (flashProgram bank w off v s).shadow = s.shadow :=
    rfl
@[simp] theorem flashProgram_resident (bank : Byte) (w : RomWindow) (off : Offset) (v : Byte) (s : State) : (flashProgram bank w off v s).resident = s.resident :=
    rfl

/-! ### Frame of `sectorErase`: the ROM and the events change -/

@[simp] theorem sectorErase_active (w : RomWindow) (b : Byte) (s : State) : (sectorErase w b s).active = s.active :=
    rfl
@[simp] theorem sectorErase_sessionNo (w : RomWindow) (b : Byte) (s : State) : (sectorErase w b s).sessionNo = s.sessionNo :=
    rfl
@[simp] theorem sectorErase_cfg (w : RomWindow) (b : Byte) (s : State) : (sectorErase w b s).cfg = s.cfg := rfl
@[simp] theorem sectorErase_inputs (w : RomWindow) (b : Byte) (s : State) : (sectorErase w b s).inputs = s.inputs :=
    rfl
@[simp] theorem sectorErase_loadError (w : RomWindow) (b : Byte) (s : State) : (sectorErase w b s).loadError = s.loadError :=
    rfl
@[simp] theorem sectorErase_reg (w : RomWindow) (b : Byte) (s : State) : (sectorErase w b s).reg = s.reg := rfl
@[simp] theorem sectorErase_map (w : RomWindow) (b : Byte) (s : State) : (sectorErase w b s).map = s.map := rfl
@[simp] theorem sectorErase_nmiOut (w : RomWindow) (b : Byte) (s : State) : (sectorErase w b s).nmiOut = s.nmiOut :=
    rfl
@[simp] theorem sectorErase_stallOut (w : RomWindow) (b : Byte) (s : State) : (sectorErase w b s).stallOut = s.stallOut :=
    rfl
@[simp] theorem sectorErase_drive (w : RomWindow) (b : Byte) (s : State) : (sectorErase w b s).drive = s.drive := rfl
@[simp] theorem sectorErase_dma (w : RomWindow) (b : Byte) (s : State) : (sectorErase w b s).dma = s.dma := rfl
@[simp] theorem sectorErase_rst (w : RomWindow) (b : Byte) (s : State) : (sectorErase w b s).rst = s.rst := rfl
@[simp] theorem sectorErase_frz (w : RomWindow) (b : Byte) (s : State) : (sectorErase w b s).frz = s.frz := rfl
@[simp] theorem sectorErase_capCnt (w : RomWindow) (b : Byte) (s : State) : (sectorErase w b s).capCnt = s.capCnt :=
    rfl
@[simp] theorem sectorErase_flash (w : RomWindow) (b : Byte) (s : State) : (sectorErase w b s).flash = s.flash := rfl
@[simp] theorem sectorErase_eepi (w : RomWindow) (b : Byte) (s : State) : (sectorErase w b s).eepi = s.eepi := rfl
@[simp] theorem sectorErase_ram (w : RomWindow) (b : Byte) (s : State) : (sectorErase w b s).ram = s.ram := rfl
@[simp] theorem sectorErase_eep (w : RomWindow) (b : Byte) (s : State) : (sectorErase w b s).eep = s.eep := rfl
@[simp] theorem sectorErase_shadow (w : RomWindow) (b : Byte) (s : State) : (sectorErase w b s).shadow = s.shadow :=
    rfl
@[simp] theorem sectorErase_resident (w : RomWindow) (b : Byte) (s : State) : (sectorErase w b s).resident = s.resident :=
    rfl

/-! ### Frame of `flashWrite`: the command state, the ROM and the events change -/

@[simp] theorem flashWrite_active (w : RomWindow) (off : Offset) (v : Byte) (s : State) : (flashWrite w off v s).active = s.active :=
    by
  unfold flashWrite; repeat' split
  all_goals simp
@[simp] theorem flashWrite_sessionNo (w : RomWindow) (off : Offset) (v : Byte) (s : State) : (flashWrite w off v s).sessionNo = s.sessionNo :=
    by
  unfold flashWrite; repeat' split
  all_goals simp
@[simp] theorem flashWrite_cfg (w : RomWindow) (off : Offset) (v : Byte) (s : State) : (flashWrite w off v s).cfg = s.cfg :=
    by
  unfold flashWrite; repeat' split
  all_goals simp
@[simp] theorem flashWrite_inputs (w : RomWindow) (off : Offset) (v : Byte) (s : State) : (flashWrite w off v s).inputs = s.inputs :=
    by
  unfold flashWrite; repeat' split
  all_goals simp
@[simp] theorem flashWrite_loadError (w : RomWindow) (off : Offset) (v : Byte) (s : State) : (flashWrite w off v s).loadError = s.loadError :=
    by
  unfold flashWrite; repeat' split
  all_goals simp
@[simp] theorem flashWrite_reg (w : RomWindow) (off : Offset) (v : Byte) (s : State) : (flashWrite w off v s).reg = s.reg :=
    by
  unfold flashWrite; repeat' split
  all_goals simp
@[simp] theorem flashWrite_map (w : RomWindow) (off : Offset) (v : Byte) (s : State) : (flashWrite w off v s).map = s.map :=
    by
  unfold flashWrite; repeat' split
  all_goals simp
@[simp] theorem flashWrite_nmiOut (w : RomWindow) (off : Offset) (v : Byte) (s : State) : (flashWrite w off v s).nmiOut = s.nmiOut :=
    by
  unfold flashWrite; repeat' split
  all_goals simp
@[simp] theorem flashWrite_stallOut (w : RomWindow) (off : Offset) (v : Byte) (s : State) : (flashWrite w off v s).stallOut = s.stallOut :=
    by
  unfold flashWrite; repeat' split
  all_goals simp
@[simp] theorem flashWrite_drive (w : RomWindow) (off : Offset) (v : Byte) (s : State) : (flashWrite w off v s).drive = s.drive :=
    by
  unfold flashWrite; repeat' split
  all_goals simp
@[simp] theorem flashWrite_dma (w : RomWindow) (off : Offset) (v : Byte) (s : State) : (flashWrite w off v s).dma = s.dma :=
    by
  unfold flashWrite; repeat' split
  all_goals simp
@[simp] theorem flashWrite_rst (w : RomWindow) (off : Offset) (v : Byte) (s : State) : (flashWrite w off v s).rst = s.rst :=
    by
  unfold flashWrite; repeat' split
  all_goals simp
@[simp] theorem flashWrite_frz (w : RomWindow) (off : Offset) (v : Byte) (s : State) : (flashWrite w off v s).frz = s.frz :=
    by
  unfold flashWrite; repeat' split
  all_goals simp
@[simp] theorem flashWrite_capCnt (w : RomWindow) (off : Offset) (v : Byte) (s : State) : (flashWrite w off v s).capCnt = s.capCnt :=
    by
  unfold flashWrite; repeat' split
  all_goals simp
@[simp] theorem flashWrite_eepi (w : RomWindow) (off : Offset) (v : Byte) (s : State) : (flashWrite w off v s).eepi = s.eepi :=
    by
  unfold flashWrite; repeat' split
  all_goals simp
@[simp] theorem flashWrite_ram (w : RomWindow) (off : Offset) (v : Byte) (s : State) : (flashWrite w off v s).ram = s.ram :=
    by
  unfold flashWrite; repeat' split
  all_goals simp
@[simp] theorem flashWrite_eep (w : RomWindow) (off : Offset) (v : Byte) (s : State) : (flashWrite w off v s).eep = s.eep :=
    by
  unfold flashWrite; repeat' split
  all_goals simp
@[simp] theorem flashWrite_shadow (w : RomWindow) (off : Offset) (v : Byte) (s : State) : (flashWrite w off v s).shadow = s.shadow :=
    by
  unfold flashWrite; repeat' split
  all_goals simp
@[simp] theorem flashWrite_resident (w : RomWindow) (off : Offset) (v : Byte) (s : State) : (flashWrite w off v s).resident = s.resident :=
    by
  unfold flashWrite; repeat' split
  all_goals simp

/-! ### Frame of `flashWindowWrite`: as of `flashWrite` -/

@[simp] theorem flashWindowWrite_active (w : RomWindow) (off : Offset) (v : Byte) (s : State) :
    (flashWindowWrite w off v s).active = s.active := by
  unfold flashWindowWrite; split <;> simp
@[simp] theorem flashWindowWrite_sessionNo (w : RomWindow) (off : Offset) (v : Byte) (s : State) :
    (flashWindowWrite w off v s).sessionNo = s.sessionNo := by
  unfold flashWindowWrite; split <;> simp
@[simp] theorem flashWindowWrite_cfg (w : RomWindow) (off : Offset) (v : Byte) (s : State) :
    (flashWindowWrite w off v s).cfg = s.cfg := by
  unfold flashWindowWrite; split <;> simp
@[simp] theorem flashWindowWrite_inputs (w : RomWindow) (off : Offset) (v : Byte) (s : State) :
    (flashWindowWrite w off v s).inputs = s.inputs := by
  unfold flashWindowWrite; split <;> simp
@[simp] theorem flashWindowWrite_loadError (w : RomWindow) (off : Offset) (v : Byte) (s : State) :
    (flashWindowWrite w off v s).loadError = s.loadError := by
  unfold flashWindowWrite; split <;> simp
@[simp] theorem flashWindowWrite_reg (w : RomWindow) (off : Offset) (v : Byte) (s : State) :
    (flashWindowWrite w off v s).reg = s.reg := by
  unfold flashWindowWrite; split <;> simp
@[simp] theorem flashWindowWrite_map (w : RomWindow) (off : Offset) (v : Byte) (s : State) :
    (flashWindowWrite w off v s).map = s.map := by
  unfold flashWindowWrite; split <;> simp
@[simp] theorem flashWindowWrite_nmiOut (w : RomWindow) (off : Offset) (v : Byte) (s : State) :
    (flashWindowWrite w off v s).nmiOut = s.nmiOut := by
  unfold flashWindowWrite; split <;> simp
@[simp] theorem flashWindowWrite_stallOut (w : RomWindow) (off : Offset) (v : Byte) (s : State) :
    (flashWindowWrite w off v s).stallOut = s.stallOut := by
  unfold flashWindowWrite; split <;> simp
@[simp] theorem flashWindowWrite_drive (w : RomWindow) (off : Offset) (v : Byte) (s : State) :
    (flashWindowWrite w off v s).drive = s.drive := by
  unfold flashWindowWrite; split <;> simp
@[simp] theorem flashWindowWrite_dma (w : RomWindow) (off : Offset) (v : Byte) (s : State) :
    (flashWindowWrite w off v s).dma = s.dma := by
  unfold flashWindowWrite; split <;> simp
@[simp] theorem flashWindowWrite_rst (w : RomWindow) (off : Offset) (v : Byte) (s : State) :
    (flashWindowWrite w off v s).rst = s.rst := by
  unfold flashWindowWrite; split <;> simp
@[simp] theorem flashWindowWrite_frz (w : RomWindow) (off : Offset) (v : Byte) (s : State) :
    (flashWindowWrite w off v s).frz = s.frz := by
  unfold flashWindowWrite; split <;> simp
@[simp] theorem flashWindowWrite_capCnt (w : RomWindow) (off : Offset) (v : Byte) (s : State) :
    (flashWindowWrite w off v s).capCnt = s.capCnt := by
  unfold flashWindowWrite; split <;> simp
@[simp] theorem flashWindowWrite_eepi (w : RomWindow) (off : Offset) (v : Byte) (s : State) :
    (flashWindowWrite w off v s).eepi = s.eepi := by
  unfold flashWindowWrite; split <;> simp
@[simp] theorem flashWindowWrite_ram (w : RomWindow) (off : Offset) (v : Byte) (s : State) :
    (flashWindowWrite w off v s).ram = s.ram := by
  unfold flashWindowWrite; split <;> simp
@[simp] theorem flashWindowWrite_eep (w : RomWindow) (off : Offset) (v : Byte) (s : State) :
    (flashWindowWrite w off v s).eep = s.eep := by
  unfold flashWindowWrite; split <;> simp
@[simp] theorem flashWindowWrite_shadow (w : RomWindow) (off : Offset) (v : Byte) (s : State) :
    (flashWindowWrite w off v s).shadow = s.shadow := by
  unfold flashWindowWrite; split <;> simp
@[simp] theorem flashWindowWrite_resident (w : RomWindow) (off : Offset) (v : Byte) (s : State) :
    (flashWindowWrite w off v s).resident = s.resident := by
  unfold flashWindowWrite; split <;> simp

/-! ### Frame of `eepStoreByte`: the EEPROM and the events change -/

@[simp] theorem eepStoreByte_active (i : Nat) (b : Byte) (s : State) : (eepStoreByte i b s).active = s.active := by
  unfold eepStoreByte; repeat' split
  all_goals simp
@[simp] theorem eepStoreByte_sessionNo (i : Nat) (b : Byte) (s : State) : (eepStoreByte i b s).sessionNo = s.sessionNo :=
    by
  unfold eepStoreByte; repeat' split
  all_goals simp
@[simp] theorem eepStoreByte_cfg (i : Nat) (b : Byte) (s : State) : (eepStoreByte i b s).cfg = s.cfg := by
  unfold eepStoreByte; repeat' split
  all_goals simp
@[simp] theorem eepStoreByte_inputs (i : Nat) (b : Byte) (s : State) : (eepStoreByte i b s).inputs = s.inputs := by
  unfold eepStoreByte; repeat' split
  all_goals simp
@[simp] theorem eepStoreByte_loadError (i : Nat) (b : Byte) (s : State) : (eepStoreByte i b s).loadError = s.loadError :=
    by
  unfold eepStoreByte; repeat' split
  all_goals simp
@[simp] theorem eepStoreByte_reg (i : Nat) (b : Byte) (s : State) : (eepStoreByte i b s).reg = s.reg := by
  unfold eepStoreByte; repeat' split
  all_goals simp
@[simp] theorem eepStoreByte_map (i : Nat) (b : Byte) (s : State) : (eepStoreByte i b s).map = s.map := by
  unfold eepStoreByte; repeat' split
  all_goals simp
@[simp] theorem eepStoreByte_nmiOut (i : Nat) (b : Byte) (s : State) : (eepStoreByte i b s).nmiOut = s.nmiOut := by
  unfold eepStoreByte; repeat' split
  all_goals simp
@[simp] theorem eepStoreByte_stallOut (i : Nat) (b : Byte) (s : State) : (eepStoreByte i b s).stallOut = s.stallOut :=
    by
  unfold eepStoreByte; repeat' split
  all_goals simp
@[simp] theorem eepStoreByte_drive (i : Nat) (b : Byte) (s : State) : (eepStoreByte i b s).drive = s.drive := by
  unfold eepStoreByte; repeat' split
  all_goals simp
@[simp] theorem eepStoreByte_dma (i : Nat) (b : Byte) (s : State) : (eepStoreByte i b s).dma = s.dma := by
  unfold eepStoreByte; repeat' split
  all_goals simp
@[simp] theorem eepStoreByte_rst (i : Nat) (b : Byte) (s : State) : (eepStoreByte i b s).rst = s.rst := by
  unfold eepStoreByte; repeat' split
  all_goals simp
@[simp] theorem eepStoreByte_frz (i : Nat) (b : Byte) (s : State) : (eepStoreByte i b s).frz = s.frz := by
  unfold eepStoreByte; repeat' split
  all_goals simp
@[simp] theorem eepStoreByte_capCnt (i : Nat) (b : Byte) (s : State) : (eepStoreByte i b s).capCnt = s.capCnt := by
  unfold eepStoreByte; repeat' split
  all_goals simp
@[simp] theorem eepStoreByte_flash (i : Nat) (b : Byte) (s : State) : (eepStoreByte i b s).flash = s.flash := by
  unfold eepStoreByte; repeat' split
  all_goals simp
@[simp] theorem eepStoreByte_eepi (i : Nat) (b : Byte) (s : State) : (eepStoreByte i b s).eepi = s.eepi := by
  unfold eepStoreByte; repeat' split
  all_goals simp
@[simp] theorem eepStoreByte_rom (i : Nat) (b : Byte) (s : State) : (eepStoreByte i b s).rom = s.rom := by
  unfold eepStoreByte; repeat' split
  all_goals simp
@[simp] theorem eepStoreByte_ram (i : Nat) (b : Byte) (s : State) : (eepStoreByte i b s).ram = s.ram := by
  unfold eepStoreByte; repeat' split
  all_goals simp
@[simp] theorem eepStoreByte_shadow (i : Nat) (b : Byte) (s : State) : (eepStoreByte i b s).shadow = s.shadow := by
  unfold eepStoreByte; repeat' split
  all_goals simp
@[simp] theorem eepStoreByte_resident (i : Nat) (b : Byte) (s : State) : (eepStoreByte i b s).resident = s.resident :=
    by
  unfold eepStoreByte; repeat' split
  all_goals simp

/-! ### Frame of `eepStoreWord`: the EEPROM and the events change -/

@[simp] theorem eepStoreWord_active (a : Nat) (v : BitVec 16) (s : State) : (eepStoreWord a v s).active = s.active :=
    by simp [eepStoreWord]
@[simp] theorem eepStoreWord_sessionNo (a : Nat) (v : BitVec 16) (s : State) : (eepStoreWord a v s).sessionNo = s.sessionNo :=
    by simp [eepStoreWord]
@[simp] theorem eepStoreWord_cfg (a : Nat) (v : BitVec 16) (s : State) : (eepStoreWord a v s).cfg = s.cfg :=
    by simp [eepStoreWord]
@[simp] theorem eepStoreWord_inputs (a : Nat) (v : BitVec 16) (s : State) : (eepStoreWord a v s).inputs = s.inputs :=
    by simp [eepStoreWord]
@[simp] theorem eepStoreWord_loadError (a : Nat) (v : BitVec 16) (s : State) : (eepStoreWord a v s).loadError = s.loadError :=
    by simp [eepStoreWord]
@[simp] theorem eepStoreWord_reg (a : Nat) (v : BitVec 16) (s : State) : (eepStoreWord a v s).reg = s.reg :=
    by simp [eepStoreWord]
@[simp] theorem eepStoreWord_map (a : Nat) (v : BitVec 16) (s : State) : (eepStoreWord a v s).map = s.map :=
    by simp [eepStoreWord]
@[simp] theorem eepStoreWord_nmiOut (a : Nat) (v : BitVec 16) (s : State) : (eepStoreWord a v s).nmiOut = s.nmiOut :=
    by simp [eepStoreWord]
@[simp] theorem eepStoreWord_stallOut (a : Nat) (v : BitVec 16) (s : State) : (eepStoreWord a v s).stallOut = s.stallOut :=
    by simp [eepStoreWord]
@[simp] theorem eepStoreWord_drive (a : Nat) (v : BitVec 16) (s : State) : (eepStoreWord a v s).drive = s.drive :=
    by simp [eepStoreWord]
@[simp] theorem eepStoreWord_dma (a : Nat) (v : BitVec 16) (s : State) : (eepStoreWord a v s).dma = s.dma :=
    by simp [eepStoreWord]
@[simp] theorem eepStoreWord_rst (a : Nat) (v : BitVec 16) (s : State) : (eepStoreWord a v s).rst = s.rst :=
    by simp [eepStoreWord]
@[simp] theorem eepStoreWord_frz (a : Nat) (v : BitVec 16) (s : State) : (eepStoreWord a v s).frz = s.frz :=
    by simp [eepStoreWord]
@[simp] theorem eepStoreWord_capCnt (a : Nat) (v : BitVec 16) (s : State) : (eepStoreWord a v s).capCnt = s.capCnt :=
    by simp [eepStoreWord]
@[simp] theorem eepStoreWord_flash (a : Nat) (v : BitVec 16) (s : State) : (eepStoreWord a v s).flash = s.flash :=
    by simp [eepStoreWord]
@[simp] theorem eepStoreWord_eepi (a : Nat) (v : BitVec 16) (s : State) : (eepStoreWord a v s).eepi = s.eepi :=
    by simp [eepStoreWord]
@[simp] theorem eepStoreWord_rom (a : Nat) (v : BitVec 16) (s : State) : (eepStoreWord a v s).rom = s.rom :=
    by simp [eepStoreWord]
@[simp] theorem eepStoreWord_ram (a : Nat) (v : BitVec 16) (s : State) : (eepStoreWord a v s).ram = s.ram :=
    by simp [eepStoreWord]
@[simp] theorem eepStoreWord_shadow (a : Nat) (v : BitVec 16) (s : State) : (eepStoreWord a v s).shadow = s.shadow :=
    by simp [eepStoreWord]
@[simp] theorem eepStoreWord_resident (a : Nat) (v : BitVec 16) (s : State) : (eepStoreWord a v s).resident = s.resident :=
    by simp [eepStoreWord]

theorem eepStoreAll_keeps {P : State → Prop} (v : BitVec 16) (s : State) (h0 : P s)
    (hw : ∀ k t, k < eepWords s.cfg → P t → P (eepStoreWord k v t)) : P (eepStoreAll v s) := by
  unfold eepStoreAll
  suffices ∀ (l : List Nat) (t : State), (∀ k ∈ l, k < eepWords s.cfg) → P t →
      P (l.foldl (fun t k => eepStoreWord k v t) t) from
    this _ s (fun k hk => List.mem_range.mp hk) h0
  intro l
  induction l with
  | nil => exact fun t _ ht => ht
  | cons k l ih => exact fun t hl ht => ih _ (fun j hj => hl j (.tail _ hj)) (hw k t (hl k (.head _)) ht)

/-! ### Frame of `eepStoreAll`: the EEPROM and the events change -/

@[simp] theorem eepStoreAll_active (v : BitVec 16) (s : State) : (eepStoreAll v s).active = s.active :=
    eepStoreAll_keeps (P := fun t => t.active = s.active) v s rfl fun _ _ _ h => by simpa using h
@[simp] theorem eepStoreAll_sessionNo (v : BitVec 16) (s : State) : (eepStoreAll v s).sessionNo = s.sessionNo :=
    eepStoreAll_keeps (P := fun t => t.sessionNo = s.sessionNo) v s rfl fun _ _ _ h => by simpa using h
@[simp] theorem eepStoreAll_cfg (v : BitVec 16) (s : State) : (eepStoreAll v s).cfg = s.cfg :=
    eepStoreAll_keeps (P := fun t => t.cfg = s.cfg) v s rfl fun _ _ _ h => by simpa using h
@[simp] theorem eepStoreAll_inputs (v : BitVec 16) (s : State) : (eepStoreAll v s).inputs = s.inputs :=
    eepStoreAll_keeps (P := fun t => t.inputs = s.inputs) v s rfl fun _ _ _ h => by simpa using h
@[simp] theorem eepStoreAll_loadError (v : BitVec 16) (s : State) : (eepStoreAll v s).loadError = s.loadError :=
    eepStoreAll_keeps (P := fun t => t.loadError = s.loadError) v s rfl fun _ _ _ h => by simpa using h
@[simp] theorem eepStoreAll_reg (v : BitVec 16) (s : State) : (eepStoreAll v s).reg = s.reg :=
    eepStoreAll_keeps (P := fun t => t.reg = s.reg) v s rfl fun _ _ _ h => by simpa using h
@[simp] theorem eepStoreAll_map (v : BitVec 16) (s : State) : (eepStoreAll v s).map = s.map :=
    eepStoreAll_keeps (P := fun t => t.map = s.map) v s rfl fun _ _ _ h => by simpa using h
@[simp] theorem eepStoreAll_nmiOut (v : BitVec 16) (s : State) : (eepStoreAll v s).nmiOut = s.nmiOut :=
    eepStoreAll_keeps (P := fun t => t.nmiOut = s.nmiOut) v s rfl fun _ _ _ h => by simpa using h
@[simp] theorem eepStoreAll_stallOut (v : BitVec 16) (s : State) : (eepStoreAll v s).stallOut = s.stallOut :=
    eepStoreAll_keeps (P := fun t => t.stallOut = s.stallOut) v s rfl fun _ _ _ h => by simpa using h
@[simp] theorem eepStoreAll_drive (v : BitVec 16) (s : State) : (eepStoreAll v s).drive = s.drive :=
    eepStoreAll_keeps (P := fun t => t.drive = s.drive) v s rfl fun _ _ _ h => by simpa using h
@[simp] theorem eepStoreAll_dma (v : BitVec 16) (s : State) : (eepStoreAll v s).dma = s.dma :=
    eepStoreAll_keeps (P := fun t => t.dma = s.dma) v s rfl fun _ _ _ h => by simpa using h
@[simp] theorem eepStoreAll_rst (v : BitVec 16) (s : State) : (eepStoreAll v s).rst = s.rst :=
    eepStoreAll_keeps (P := fun t => t.rst = s.rst) v s rfl fun _ _ _ h => by simpa using h
@[simp] theorem eepStoreAll_frz (v : BitVec 16) (s : State) : (eepStoreAll v s).frz = s.frz :=
    eepStoreAll_keeps (P := fun t => t.frz = s.frz) v s rfl fun _ _ _ h => by simpa using h
@[simp] theorem eepStoreAll_capCnt (v : BitVec 16) (s : State) : (eepStoreAll v s).capCnt = s.capCnt :=
    eepStoreAll_keeps (P := fun t => t.capCnt = s.capCnt) v s rfl fun _ _ _ h => by simpa using h
@[simp] theorem eepStoreAll_flash (v : BitVec 16) (s : State) : (eepStoreAll v s).flash = s.flash :=
    eepStoreAll_keeps (P := fun t => t.flash = s.flash) v s rfl fun _ _ _ h => by simpa using h
@[simp] theorem eepStoreAll_eepi (v : BitVec 16) (s : State) : (eepStoreAll v s).eepi = s.eepi :=
    eepStoreAll_keeps (P := fun t => t.eepi = s.eepi) v s rfl fun _ _ _ h => by simpa using h
@[simp] theorem eepStoreAll_rom (v : BitVec 16) (s : State) : (eepStoreAll v s).rom = s.rom :=
    eepStoreAll_keeps (P := fun t => t.rom = s.rom) v s rfl fun _ _ _ h => by simpa using h
@[simp] theorem eepStoreAll_ram (v : BitVec 16) (s : State) : (eepStoreAll v s).ram = s.ram :=
    eepStoreAll_keeps (P := fun t => t.ram = s.ram) v s rfl fun _ _ _ h => by simpa using h
@[simp] theorem eepStoreAll_shadow (v : BitVec 16) (s : State) : (eepStoreAll v s).shadow = s.shadow :=
    eepStoreAll_keeps (P := fun t => t.shadow = s.shadow) v s rfl fun _ _ _ h => by simpa using h
@[simp] theorem eepStoreAll_resident (v : BitVec 16) (s : State) : (eepStoreAll v s).resident = s.resident :=
    eepStoreAll_keeps (P := fun t => t.resident = s.resident) v s rfl fun _ _ _ h => by simpa using h

/-! ### Frame of `eepReady`: the interface changes -/

@[simp] theorem eepReady_active (s : State) : (eepReady s).active = s.active := rfl
@[simp] theorem eepReady_sessionNo (s : State) : (eepReady s).sessionNo = s.sessionNo := rfl
@[simp] theorem eepReady_cfg (s : State) : (eepReady s).cfg = s.cfg := rfl
@[simp] theorem eepReady_inputs (s : State) : (eepReady s).inputs = s.inputs := rfl
@[simp] theorem eepReady_loadError (s : State) : (eepReady s).loadError = s.loadError := rfl
@[simp] theorem eepReady_reg (s : State) : (eepReady s).reg = s.reg := rfl
@[simp] theorem eepReady_map (s : State) : (eepReady s).map = s.map := rfl
@[simp] theorem eepReady_nmiOut (s : State) : (eepReady s).nmiOut = s.nmiOut := rfl
@[simp] theorem eepReady_stallOut (s : State) : (eepReady s).stallOut = s.stallOut := rfl
@[simp] theorem eepReady_drive (s : State) : (eepReady s).drive = s.drive := rfl
@[simp] theorem eepReady_events (s : State) : (eepReady s).events = s.events := rfl
@[simp] theorem eepReady_dma (s : State) : (eepReady s).dma = s.dma := rfl
@[simp] theorem eepReady_rst (s : State) : (eepReady s).rst = s.rst := rfl
@[simp] theorem eepReady_frz (s : State) : (eepReady s).frz = s.frz := rfl
@[simp] theorem eepReady_capCnt (s : State) : (eepReady s).capCnt = s.capCnt := rfl
@[simp] theorem eepReady_flash (s : State) : (eepReady s).flash = s.flash := rfl
@[simp] theorem eepReady_rom (s : State) : (eepReady s).rom = s.rom := rfl
@[simp] theorem eepReady_ram (s : State) : (eepReady s).ram = s.ram := rfl
@[simp] theorem eepReady_eep (s : State) : (eepReady s).eep = s.eep := rfl
@[simp] theorem eepReady_shadow (s : State) : (eepReady s).shadow = s.shadow := rfl
@[simp] theorem eepReady_resident (s : State) : (eepReady s).resident = s.resident := rfl

/-! ### Frame of `eepTakeBit`: the interface changes -/

@[simp] theorem eepTakeBit_active (di : Bool) (s : State) : (eepTakeBit di s).active = s.active := rfl
@[simp] theorem eepTakeBit_sessionNo (di : Bool) (s : State) : (eepTakeBit di s).sessionNo = s.sessionNo := rfl
@[simp] theorem eepTakeBit_cfg (di : Bool) (s : State) : (eepTakeBit di s).cfg = s.cfg := rfl
@[simp] theorem eepTakeBit_inputs (di : Bool) (s : State) : (eepTakeBit di s).inputs = s.inputs := rfl
@[simp] theorem eepTakeBit_loadError (di : Bool) (s : State) : (eepTakeBit di s).loadError = s.loadError := rfl
@[simp] theorem eepTakeBit_reg (di : Bool) (s : State) : (eepTakeBit di s).reg = s.reg := rfl
@[simp] theorem eepTakeBit_map (di : Bool) (s : State) : (eepTakeBit di s).map = s.map := rfl
@[simp] theorem eepTakeBit_nmiOut (di : Bool) (s : State) : (eepTakeBit di s).nmiOut = s.nmiOut := rfl
@[simp] theorem eepTakeBit_stallOut (di : Bool) (s : State) : (eepTakeBit di s).stallOut = s.stallOut := rfl
@[simp] theorem eepTakeBit_drive (di : Bool) (s : State) : (eepTakeBit di s).drive = s.drive := rfl
@[simp] theorem eepTakeBit_events (di : Bool) (s : State) : (eepTakeBit di s).events = s.events := rfl
@[simp] theorem eepTakeBit_dma (di : Bool) (s : State) : (eepTakeBit di s).dma = s.dma := rfl
@[simp] theorem eepTakeBit_rst (di : Bool) (s : State) : (eepTakeBit di s).rst = s.rst := rfl
@[simp] theorem eepTakeBit_frz (di : Bool) (s : State) : (eepTakeBit di s).frz = s.frz := rfl
@[simp] theorem eepTakeBit_capCnt (di : Bool) (s : State) : (eepTakeBit di s).capCnt = s.capCnt := rfl
@[simp] theorem eepTakeBit_flash (di : Bool) (s : State) : (eepTakeBit di s).flash = s.flash := rfl
@[simp] theorem eepTakeBit_rom (di : Bool) (s : State) : (eepTakeBit di s).rom = s.rom := rfl
@[simp] theorem eepTakeBit_ram (di : Bool) (s : State) : (eepTakeBit di s).ram = s.ram := rfl
@[simp] theorem eepTakeBit_eep (di : Bool) (s : State) : (eepTakeBit di s).eep = s.eep := rfl
@[simp] theorem eepTakeBit_shadow (di : Bool) (s : State) : (eepTakeBit di s).shadow = s.shadow := rfl
@[simp] theorem eepTakeBit_resident (di : Bool) (s : State) : (eepTakeBit di s).resident = s.resident := rfl

/-! ### Frame of `eepSelect`: the interface changes -/

@[simp] theorem eepSelect_active (s : State) : (eepSelect s).active = s.active := rfl
@[simp] theorem eepSelect_sessionNo (s : State) : (eepSelect s).sessionNo = s.sessionNo := rfl
@[simp] theorem eepSelect_cfg (s : State) : (eepSelect s).cfg = s.cfg := rfl
@[simp] theorem eepSelect_inputs (s : State) : (eepSelect s).inputs = s.inputs := rfl
@[simp] theorem eepSelect_loadError (s : State) : (eepSelect s).loadError = s.loadError := rfl
@[simp] theorem eepSelect_reg (s : State) : (eepSelect s).reg = s.reg := rfl
@[simp] theorem eepSelect_map (s : State) : (eepSelect s).map = s.map := rfl
@[simp] theorem eepSelect_nmiOut (s : State) : (eepSelect s).nmiOut = s.nmiOut := rfl
@[simp] theorem eepSelect_stallOut (s : State) : (eepSelect s).stallOut = s.stallOut := rfl
@[simp] theorem eepSelect_drive (s : State) : (eepSelect s).drive = s.drive := rfl
@[simp] theorem eepSelect_events (s : State) : (eepSelect s).events = s.events := rfl
@[simp] theorem eepSelect_dma (s : State) : (eepSelect s).dma = s.dma := rfl
@[simp] theorem eepSelect_rst (s : State) : (eepSelect s).rst = s.rst := rfl
@[simp] theorem eepSelect_frz (s : State) : (eepSelect s).frz = s.frz := rfl
@[simp] theorem eepSelect_capCnt (s : State) : (eepSelect s).capCnt = s.capCnt := rfl
@[simp] theorem eepSelect_flash (s : State) : (eepSelect s).flash = s.flash := rfl
@[simp] theorem eepSelect_rom (s : State) : (eepSelect s).rom = s.rom := rfl
@[simp] theorem eepSelect_ram (s : State) : (eepSelect s).ram = s.ram := rfl
@[simp] theorem eepSelect_eep (s : State) : (eepSelect s).eep = s.eep := rfl
@[simp] theorem eepSelect_shadow (s : State) : (eepSelect s).shadow = s.shadow := rfl
@[simp] theorem eepSelect_resident (s : State) : (eepSelect s).resident = s.resident := rfl

/-! ### Frame of `eepDeselect`: the interface changes -/

@[simp] theorem eepDeselect_active (s : State) : (eepDeselect s).active = s.active := rfl
@[simp] theorem eepDeselect_sessionNo (s : State) : (eepDeselect s).sessionNo = s.sessionNo := rfl
@[simp] theorem eepDeselect_cfg (s : State) : (eepDeselect s).cfg = s.cfg := rfl
@[simp] theorem eepDeselect_inputs (s : State) : (eepDeselect s).inputs = s.inputs := rfl
@[simp] theorem eepDeselect_loadError (s : State) : (eepDeselect s).loadError = s.loadError := rfl
@[simp] theorem eepDeselect_reg (s : State) : (eepDeselect s).reg = s.reg := rfl
@[simp] theorem eepDeselect_map (s : State) : (eepDeselect s).map = s.map := rfl
@[simp] theorem eepDeselect_nmiOut (s : State) : (eepDeselect s).nmiOut = s.nmiOut := rfl
@[simp] theorem eepDeselect_stallOut (s : State) : (eepDeselect s).stallOut = s.stallOut := rfl
@[simp] theorem eepDeselect_drive (s : State) : (eepDeselect s).drive = s.drive := rfl
@[simp] theorem eepDeselect_events (s : State) : (eepDeselect s).events = s.events := rfl
@[simp] theorem eepDeselect_dma (s : State) : (eepDeselect s).dma = s.dma := rfl
@[simp] theorem eepDeselect_rst (s : State) : (eepDeselect s).rst = s.rst := rfl
@[simp] theorem eepDeselect_frz (s : State) : (eepDeselect s).frz = s.frz := rfl
@[simp] theorem eepDeselect_capCnt (s : State) : (eepDeselect s).capCnt = s.capCnt := rfl
@[simp] theorem eepDeselect_flash (s : State) : (eepDeselect s).flash = s.flash := rfl
@[simp] theorem eepDeselect_rom (s : State) : (eepDeselect s).rom = s.rom := rfl
@[simp] theorem eepDeselect_ram (s : State) : (eepDeselect s).ram = s.ram := rfl
@[simp] theorem eepDeselect_eep (s : State) : (eepDeselect s).eep = s.eep := rfl
@[simp] theorem eepDeselect_shadow (s : State) : (eepDeselect s).shadow = s.shadow := rfl
@[simp] theorem eepDeselect_resident (s : State) : (eepDeselect s).resident = s.resident := rfl

/-! ### Frame of `eepShiftOut`: the interface changes -/

@[simp] theorem eepShiftOut_active (s : State) : (eepShiftOut s).active = s.active := by
  unfold eepShiftOut; repeat' split
  all_goals rfl
@[simp] theorem eepShiftOut_sessionNo (s : State) : (eepShiftOut s).sessionNo = s.sessionNo := by
  unfold eepShiftOut; repeat' split
  all_goals rfl
@[simp] theorem eepShiftOut_cfg (s : State) : (eepShiftOut s).cfg = s.cfg := by
  unfold eepShiftOut; repeat' split
  all_goals rfl
@[simp] theorem eepShiftOut_inputs (s : State) : (eepShiftOut s).inputs = s.inputs := by
  unfold eepShiftOut; repeat' split
  all_goals rfl
@[simp] theorem eepShiftOut_loadError (s : State) : (eepShiftOut s).loadError = s.loadError := by
  unfold eepShiftOut; repeat' split
  all_goals rfl
@[simp] theorem eepShiftOut_reg (s : State) : (eepShiftOut s).reg = s.reg := by
  unfold eepShiftOut; repeat' split
  all_goals rfl
@[simp] theorem eepShiftOut_map (s : State) : (eepShiftOut s).map = s.map := by
  unfold eepShiftOut; repeat' split
  all_goals rfl
@[simp] theorem eepShiftOut_nmiOut (s : State) : (eepShiftOut s).nmiOut = s.nmiOut := by
  unfold eepShiftOut; repeat' split
  all_goals rfl
@[simp] theorem eepShiftOut_stallOut (s : State) : (eepShiftOut s).stallOut = s.stallOut := by
  unfold eepShiftOut; repeat' split
  all_goals rfl
@[simp] theorem eepShiftOut_drive (s : State) : (eepShiftOut s).drive = s.drive := by
  unfold eepShiftOut; repeat' split
  all_goals rfl
@[simp] theorem eepShiftOut_events (s : State) : (eepShiftOut s).events = s.events := by
  unfold eepShiftOut; repeat' split
  all_goals rfl
@[simp] theorem eepShiftOut_dma (s : State) : (eepShiftOut s).dma = s.dma := by
  unfold eepShiftOut; repeat' split
  all_goals rfl
@[simp] theorem eepShiftOut_rst (s : State) : (eepShiftOut s).rst = s.rst := by
  unfold eepShiftOut; repeat' split
  all_goals rfl
@[simp] theorem eepShiftOut_frz (s : State) : (eepShiftOut s).frz = s.frz := by
  unfold eepShiftOut; repeat' split
  all_goals rfl
@[simp] theorem eepShiftOut_capCnt (s : State) : (eepShiftOut s).capCnt = s.capCnt := by
  unfold eepShiftOut; repeat' split
  all_goals rfl
@[simp] theorem eepShiftOut_flash (s : State) : (eepShiftOut s).flash = s.flash := by
  unfold eepShiftOut; repeat' split
  all_goals rfl
@[simp] theorem eepShiftOut_rom (s : State) : (eepShiftOut s).rom = s.rom := by
  unfold eepShiftOut; repeat' split
  all_goals rfl
@[simp] theorem eepShiftOut_ram (s : State) : (eepShiftOut s).ram = s.ram := by
  unfold eepShiftOut; repeat' split
  all_goals rfl
@[simp] theorem eepShiftOut_eep (s : State) : (eepShiftOut s).eep = s.eep := by
  unfold eepShiftOut; repeat' split
  all_goals rfl
@[simp] theorem eepShiftOut_shadow (s : State) : (eepShiftOut s).shadow = s.shadow := by
  unfold eepShiftOut; repeat' split
  all_goals rfl
@[simp] theorem eepShiftOut_resident (s : State) : (eepShiftOut s).resident = s.resident := by
  unfold eepShiftOut; repeat' split
  all_goals rfl

/-! ### Frame of `eepCommand`: the interface, the EEPROM and the events change -/

@[simp] theorem eepCommand_active (op : BitVec 2) (a : BitVec 10) (s : State) : (eepCommand op a s).active = s.active :=
    by
  unfold eepCommand; repeat' split
  all_goals simp
@[simp] theorem eepCommand_sessionNo (op : BitVec 2) (a : BitVec 10) (s : State) : (eepCommand op a s).sessionNo = s.sessionNo :=
    by
  unfold eepCommand; repeat' split
  all_goals simp
@[simp] theorem eepCommand_cfg (op : BitVec 2) (a : BitVec 10) (s : State) : (eepCommand op a s).cfg = s.cfg := by
  unfold eepCommand; repeat' split
  all_goals simp
@[simp] theorem eepCommand_inputs (op : BitVec 2) (a : BitVec 10) (s : State) : (eepCommand op a s).inputs = s.inputs :=
    by
  unfold eepCommand; repeat' split
  all_goals simp
@[simp] theorem eepCommand_loadError (op : BitVec 2) (a : BitVec 10) (s : State) : (eepCommand op a s).loadError = s.loadError :=
    by
  unfold eepCommand; repeat' split
  all_goals simp
@[simp] theorem eepCommand_reg (op : BitVec 2) (a : BitVec 10) (s : State) : (eepCommand op a s).reg = s.reg := by
  unfold eepCommand; repeat' split
  all_goals simp
@[simp] theorem eepCommand_map (op : BitVec 2) (a : BitVec 10) (s : State) : (eepCommand op a s).map = s.map := by
  unfold eepCommand; repeat' split
  all_goals simp
@[simp] theorem eepCommand_nmiOut (op : BitVec 2) (a : BitVec 10) (s : State) : (eepCommand op a s).nmiOut = s.nmiOut :=
    by
  unfold eepCommand; repeat' split
  all_goals simp
@[simp] theorem eepCommand_stallOut (op : BitVec 2) (a : BitVec 10) (s : State) : (eepCommand op a s).stallOut = s.stallOut :=
    by
  unfold eepCommand; repeat' split
  all_goals simp
@[simp] theorem eepCommand_drive (op : BitVec 2) (a : BitVec 10) (s : State) : (eepCommand op a s).drive = s.drive :=
    by
  unfold eepCommand; repeat' split
  all_goals simp
@[simp] theorem eepCommand_dma (op : BitVec 2) (a : BitVec 10) (s : State) : (eepCommand op a s).dma = s.dma := by
  unfold eepCommand; repeat' split
  all_goals simp
@[simp] theorem eepCommand_rst (op : BitVec 2) (a : BitVec 10) (s : State) : (eepCommand op a s).rst = s.rst := by
  unfold eepCommand; repeat' split
  all_goals simp
@[simp] theorem eepCommand_frz (op : BitVec 2) (a : BitVec 10) (s : State) : (eepCommand op a s).frz = s.frz := by
  unfold eepCommand; repeat' split
  all_goals simp
@[simp] theorem eepCommand_capCnt (op : BitVec 2) (a : BitVec 10) (s : State) : (eepCommand op a s).capCnt = s.capCnt :=
    by
  unfold eepCommand; repeat' split
  all_goals simp
@[simp] theorem eepCommand_flash (op : BitVec 2) (a : BitVec 10) (s : State) : (eepCommand op a s).flash = s.flash :=
    by
  unfold eepCommand; repeat' split
  all_goals simp
@[simp] theorem eepCommand_rom (op : BitVec 2) (a : BitVec 10) (s : State) : (eepCommand op a s).rom = s.rom := by
  unfold eepCommand; repeat' split
  all_goals simp
@[simp] theorem eepCommand_ram (op : BitVec 2) (a : BitVec 10) (s : State) : (eepCommand op a s).ram = s.ram := by
  unfold eepCommand; repeat' split
  all_goals simp
@[simp] theorem eepCommand_shadow (op : BitVec 2) (a : BitVec 10) (s : State) : (eepCommand op a s).shadow = s.shadow :=
    by
  unfold eepCommand; repeat' split
  all_goals simp
@[simp] theorem eepCommand_resident (op : BitVec 2) (a : BitVec 10) (s : State) : (eepCommand op a s).resident = s.resident :=
    by
  unfold eepCommand; repeat' split
  all_goals simp

/-! ### Frame of `eepCommit`: the interface, the EEPROM and the events change -/

@[simp] theorem eepCommit_active (s : State) : (eepCommit s).active = s.active := by
  unfold eepCommit; rw [eepReady_active]; repeat' split
  all_goals simp
@[simp] theorem eepCommit_sessionNo (s : State) : (eepCommit s).sessionNo = s.sessionNo := by
  unfold eepCommit; rw [eepReady_sessionNo]; repeat' split
  all_goals simp
@[simp] theorem eepCommit_cfg (s : State) : (eepCommit s).cfg = s.cfg := by
  unfold eepCommit; rw [eepReady_cfg]; repeat' split
  all_goals simp
@[simp] theorem eepCommit_inputs (s : State) : (eepCommit s).inputs = s.inputs := by
  unfold eepCommit; rw [eepReady_inputs]; repeat' split
  all_goals simp
@[simp] theorem eepCommit_loadError (s : State) : (eepCommit s).loadError = s.loadError := by
  unfold eepCommit; rw [eepReady_loadError]; repeat' split
  all_goals simp
@[simp] theorem eepCommit_reg (s : State) : (eepCommit s).reg = s.reg := by
  unfold eepCommit; rw [eepReady_reg]; repeat' split
  all_goals simp
@[simp] theorem eepCommit_map (s : State) : (eepCommit s).map = s.map := by
  unfold eepCommit; rw [eepReady_map]; repeat' split
  all_goals simp
@[simp] theorem eepCommit_nmiOut (s : State) : (eepCommit s).nmiOut = s.nmiOut := by
  unfold eepCommit; rw [eepReady_nmiOut]; repeat' split
  all_goals simp
@[simp] theorem eepCommit_stallOut (s : State) : (eepCommit s).stallOut = s.stallOut := by
  unfold eepCommit; rw [eepReady_stallOut]; repeat' split
  all_goals simp
@[simp] theorem eepCommit_drive (s : State) : (eepCommit s).drive = s.drive := by
  unfold eepCommit; rw [eepReady_drive]; repeat' split
  all_goals simp
@[simp] theorem eepCommit_dma (s : State) : (eepCommit s).dma = s.dma := by
  unfold eepCommit; rw [eepReady_dma]; repeat' split
  all_goals simp
@[simp] theorem eepCommit_rst (s : State) : (eepCommit s).rst = s.rst := by
  unfold eepCommit; rw [eepReady_rst]; repeat' split
  all_goals simp
@[simp] theorem eepCommit_frz (s : State) : (eepCommit s).frz = s.frz := by
  unfold eepCommit; rw [eepReady_frz]; repeat' split
  all_goals simp
@[simp] theorem eepCommit_capCnt (s : State) : (eepCommit s).capCnt = s.capCnt := by
  unfold eepCommit; rw [eepReady_capCnt]; repeat' split
  all_goals simp
@[simp] theorem eepCommit_flash (s : State) : (eepCommit s).flash = s.flash := by
  unfold eepCommit; rw [eepReady_flash]; repeat' split
  all_goals simp
@[simp] theorem eepCommit_rom (s : State) : (eepCommit s).rom = s.rom := by
  unfold eepCommit; rw [eepReady_rom]; repeat' split
  all_goals simp
@[simp] theorem eepCommit_ram (s : State) : (eepCommit s).ram = s.ram := by
  unfold eepCommit; rw [eepReady_ram]; repeat' split
  all_goals simp
@[simp] theorem eepCommit_shadow (s : State) : (eepCommit s).shadow = s.shadow := by
  unfold eepCommit; rw [eepReady_shadow]; repeat' split
  all_goals simp
@[simp] theorem eepCommit_resident (s : State) : (eepCommit s).resident = s.resident := by
  unfold eepCommit; rw [eepReady_resident]; repeat' split
  all_goals simp

/-! ### Frame of `eepClock`: the interface, the EEPROM and the events change -/

@[simp] theorem eepClock_active (di : Bool) (s : State) : (eepClock di s).active = s.active := by
  unfold eepClock; repeat' split
  all_goals simp
@[simp] theorem eepClock_sessionNo (di : Bool) (s : State) : (eepClock di s).sessionNo = s.sessionNo := by
  unfold eepClock; repeat' split
  all_goals simp
@[simp] theorem eepClock_cfg (di : Bool) (s : State) : (eepClock di s).cfg = s.cfg := by
  unfold eepClock; repeat' split
  all_goals simp
@[simp] theorem eepClock_inputs (di : Bool) (s : State) : (eepClock di s).inputs = s.inputs := by
  unfold eepClock; repeat' split
  all_goals simp
@[simp] theorem eepClock_loadError (di : Bool) (s : State) : (eepClock di s).loadError = s.loadError := by
  unfold eepClock; repeat' split
  all_goals simp
@[simp] theorem eepClock_reg (di : Bool) (s : State) : (eepClock di s).reg = s.reg := by
  unfold eepClock; repeat' split
  all_goals simp
@[simp] theorem eepClock_map (di : Bool) (s : State) : (eepClock di s).map = s.map := by
  unfold eepClock; repeat' split
  all_goals simp
@[simp] theorem eepClock_nmiOut (di : Bool) (s : State) : (eepClock di s).nmiOut = s.nmiOut := by
  unfold eepClock; repeat' split
  all_goals simp
@[simp] theorem eepClock_stallOut (di : Bool) (s : State) : (eepClock di s).stallOut = s.stallOut := by
  unfold eepClock; repeat' split
  all_goals simp
@[simp] theorem eepClock_drive (di : Bool) (s : State) : (eepClock di s).drive = s.drive := by
  unfold eepClock; repeat' split
  all_goals simp
@[simp] theorem eepClock_dma (di : Bool) (s : State) : (eepClock di s).dma = s.dma := by
  unfold eepClock; repeat' split
  all_goals simp
@[simp] theorem eepClock_rst (di : Bool) (s : State) : (eepClock di s).rst = s.rst := by
  unfold eepClock; repeat' split
  all_goals simp
@[simp] theorem eepClock_frz (di : Bool) (s : State) : (eepClock di s).frz = s.frz := by
  unfold eepClock; repeat' split
  all_goals simp
@[simp] theorem eepClock_capCnt (di : Bool) (s : State) : (eepClock di s).capCnt = s.capCnt := by
  unfold eepClock; repeat' split
  all_goals simp
@[simp] theorem eepClock_flash (di : Bool) (s : State) : (eepClock di s).flash = s.flash := by
  unfold eepClock; repeat' split
  all_goals simp
@[simp] theorem eepClock_rom (di : Bool) (s : State) : (eepClock di s).rom = s.rom := by
  unfold eepClock; repeat' split
  all_goals simp
@[simp] theorem eepClock_ram (di : Bool) (s : State) : (eepClock di s).ram = s.ram := by
  unfold eepClock; repeat' split
  all_goals simp
@[simp] theorem eepClock_shadow (di : Bool) (s : State) : (eepClock di s).shadow = s.shadow := by
  unfold eepClock; repeat' split
  all_goals simp
@[simp] theorem eepClock_resident (di : Bool) (s : State) : (eepClock di s).resident = s.resident := by
  unfold eepClock; repeat' split
  all_goals simp

/-! ### Frame of `eepChipSelect`: the interface changes -/

@[simp] theorem eepChipSelect_active (cs : Bool) (s : State) : (eepChipSelect cs s).active = s.active := by
  unfold eepChipSelect; repeat' split
  all_goals simp
@[simp] theorem eepChipSelect_sessionNo (cs : Bool) (s : State) : (eepChipSelect cs s).sessionNo = s.sessionNo := by
  unfold eepChipSelect; repeat' split
  all_goals simp
@[simp] theorem eepChipSelect_cfg (cs : Bool) (s : State) : (eepChipSelect cs s).cfg = s.cfg := by
  unfold eepChipSelect; repeat' split
  all_goals simp
@[simp] theorem eepChipSelect_inputs (cs : Bool) (s : State) : (eepChipSelect cs s).inputs = s.inputs := by
  unfold eepChipSelect; repeat' split
  all_goals simp
@[simp] theorem eepChipSelect_loadError (cs : Bool) (s : State) : (eepChipSelect cs s).loadError = s.loadError := by
  unfold eepChipSelect; repeat' split
  all_goals simp
@[simp] theorem eepChipSelect_reg (cs : Bool) (s : State) : (eepChipSelect cs s).reg = s.reg := by
  unfold eepChipSelect; repeat' split
  all_goals simp
@[simp] theorem eepChipSelect_map (cs : Bool) (s : State) : (eepChipSelect cs s).map = s.map := by
  unfold eepChipSelect; repeat' split
  all_goals simp
@[simp] theorem eepChipSelect_nmiOut (cs : Bool) (s : State) : (eepChipSelect cs s).nmiOut = s.nmiOut := by
  unfold eepChipSelect; repeat' split
  all_goals simp
@[simp] theorem eepChipSelect_stallOut (cs : Bool) (s : State) : (eepChipSelect cs s).stallOut = s.stallOut := by
  unfold eepChipSelect; repeat' split
  all_goals simp
@[simp] theorem eepChipSelect_drive (cs : Bool) (s : State) : (eepChipSelect cs s).drive = s.drive := by
  unfold eepChipSelect; repeat' split
  all_goals simp
@[simp] theorem eepChipSelect_events (cs : Bool) (s : State) : (eepChipSelect cs s).events = s.events := by
  unfold eepChipSelect; repeat' split
  all_goals simp
@[simp] theorem eepChipSelect_dma (cs : Bool) (s : State) : (eepChipSelect cs s).dma = s.dma := by
  unfold eepChipSelect; repeat' split
  all_goals simp
@[simp] theorem eepChipSelect_rst (cs : Bool) (s : State) : (eepChipSelect cs s).rst = s.rst := by
  unfold eepChipSelect; repeat' split
  all_goals simp
@[simp] theorem eepChipSelect_frz (cs : Bool) (s : State) : (eepChipSelect cs s).frz = s.frz := by
  unfold eepChipSelect; repeat' split
  all_goals simp
@[simp] theorem eepChipSelect_capCnt (cs : Bool) (s : State) : (eepChipSelect cs s).capCnt = s.capCnt := by
  unfold eepChipSelect; repeat' split
  all_goals simp
@[simp] theorem eepChipSelect_flash (cs : Bool) (s : State) : (eepChipSelect cs s).flash = s.flash := by
  unfold eepChipSelect; repeat' split
  all_goals simp
@[simp] theorem eepChipSelect_rom (cs : Bool) (s : State) : (eepChipSelect cs s).rom = s.rom := by
  unfold eepChipSelect; repeat' split
  all_goals simp
@[simp] theorem eepChipSelect_ram (cs : Bool) (s : State) : (eepChipSelect cs s).ram = s.ram := by
  unfold eepChipSelect; repeat' split
  all_goals simp
@[simp] theorem eepChipSelect_eep (cs : Bool) (s : State) : (eepChipSelect cs s).eep = s.eep := by
  unfold eepChipSelect; repeat' split
  all_goals simp
@[simp] theorem eepChipSelect_shadow (cs : Bool) (s : State) : (eepChipSelect cs s).shadow = s.shadow := by
  unfold eepChipSelect; repeat' split
  all_goals simp
@[simp] theorem eepChipSelect_resident (cs : Bool) (s : State) : (eepChipSelect cs s).resident = s.resident := by
  unfold eepChipSelect; repeat' split
  all_goals simp

/-! ### Frame of `eepLatchData`: the interface changes -/

@[simp] theorem eepLatchData_active (cs : Bool) (di : Bool) (s : State) : (eepLatchData cs di s).active = s.active :=
    rfl
@[simp] theorem eepLatchData_sessionNo (cs : Bool) (di : Bool) (s : State) : (eepLatchData cs di s).sessionNo = s.sessionNo :=
    rfl
@[simp] theorem eepLatchData_cfg (cs : Bool) (di : Bool) (s : State) : (eepLatchData cs di s).cfg = s.cfg := rfl
@[simp] theorem eepLatchData_inputs (cs : Bool) (di : Bool) (s : State) : (eepLatchData cs di s).inputs = s.inputs :=
    rfl
@[simp] theorem eepLatchData_loadError (cs : Bool) (di : Bool) (s : State) : (eepLatchData cs di s).loadError = s.loadError :=
    rfl
@[simp] theorem eepLatchData_reg (cs : Bool) (di : Bool) (s : State) : (eepLatchData cs di s).reg = s.reg := rfl
@[simp] theorem eepLatchData_map (cs : Bool) (di : Bool) (s : State) : (eepLatchData cs di s).map = s.map := rfl
@[simp] theorem eepLatchData_nmiOut (cs : Bool) (di : Bool) (s : State) : (eepLatchData cs di s).nmiOut = s.nmiOut :=
    rfl
@[simp] theorem eepLatchData_stallOut (cs : Bool) (di : Bool) (s : State) : (eepLatchData cs di s).stallOut = s.stallOut :=
    rfl
@[simp] theorem eepLatchData_drive (cs : Bool) (di : Bool) (s : State) : (eepLatchData cs di s).drive = s.drive := rfl
@[simp] theorem eepLatchData_events (cs : Bool) (di : Bool) (s : State) : (eepLatchData cs di s).events = s.events :=
    rfl
@[simp] theorem eepLatchData_dma (cs : Bool) (di : Bool) (s : State) : (eepLatchData cs di s).dma = s.dma := rfl
@[simp] theorem eepLatchData_rst (cs : Bool) (di : Bool) (s : State) : (eepLatchData cs di s).rst = s.rst := rfl
@[simp] theorem eepLatchData_frz (cs : Bool) (di : Bool) (s : State) : (eepLatchData cs di s).frz = s.frz := rfl
@[simp] theorem eepLatchData_capCnt (cs : Bool) (di : Bool) (s : State) : (eepLatchData cs di s).capCnt = s.capCnt :=
    rfl
@[simp] theorem eepLatchData_flash (cs : Bool) (di : Bool) (s : State) : (eepLatchData cs di s).flash = s.flash := rfl
@[simp] theorem eepLatchData_rom (cs : Bool) (di : Bool) (s : State) : (eepLatchData cs di s).rom = s.rom := rfl
@[simp] theorem eepLatchData_ram (cs : Bool) (di : Bool) (s : State) : (eepLatchData cs di s).ram = s.ram := rfl
@[simp] theorem eepLatchData_eep (cs : Bool) (di : Bool) (s : State) : (eepLatchData cs di s).eep = s.eep := rfl
@[simp] theorem eepLatchData_shadow (cs : Bool) (di : Bool) (s : State) : (eepLatchData cs di s).shadow = s.shadow :=
    rfl
@[simp] theorem eepLatchData_resident (cs : Bool) (di : Bool) (s : State) : (eepLatchData cs di s).resident = s.resident :=
    rfl

/-! ### Frame of `eepLatchClock`: the interface changes -/

@[simp] theorem eepLatchClock_active (clk : Bool) (s : State) : (eepLatchClock clk s).active = s.active := rfl
@[simp] theorem eepLatchClock_sessionNo (clk : Bool) (s : State) : (eepLatchClock clk s).sessionNo = s.sessionNo :=
    rfl
@[simp] theorem eepLatchClock_cfg (clk : Bool) (s : State) : (eepLatchClock clk s).cfg = s.cfg := rfl
@[simp] theorem eepLatchClock_inputs (clk : Bool) (s : State) : (eepLatchClock clk s).inputs = s.inputs := rfl
@[simp] theorem eepLatchClock_loadError (clk : Bool) (s : State) : (eepLatchClock clk s).loadError = s.loadError :=
    rfl
@[simp] theorem eepLatchClock_reg (clk : Bool) (s : State) : (eepLatchClock clk s).reg = s.reg := rfl
@[simp] theorem eepLatchClock_map (clk : Bool) (s : State) : (eepLatchClock clk s).map = s.map := rfl
@[simp] theorem eepLatchClock_nmiOut (clk : Bool) (s : State) : (eepLatchClock clk s).nmiOut = s.nmiOut := rfl
@[simp] theorem eepLatchClock_stallOut (clk : Bool) (s : State) : (eepLatchClock clk s).stallOut = s.stallOut := rfl
@[simp] theorem eepLatchClock_drive (clk : Bool) (s : State) : (eepLatchClock clk s).drive = s.drive := rfl
@[simp] theorem eepLatchClock_events (clk : Bool) (s : State) : (eepLatchClock clk s).events = s.events := rfl
@[simp] theorem eepLatchClock_dma (clk : Bool) (s : State) : (eepLatchClock clk s).dma = s.dma := rfl
@[simp] theorem eepLatchClock_rst (clk : Bool) (s : State) : (eepLatchClock clk s).rst = s.rst := rfl
@[simp] theorem eepLatchClock_frz (clk : Bool) (s : State) : (eepLatchClock clk s).frz = s.frz := rfl
@[simp] theorem eepLatchClock_capCnt (clk : Bool) (s : State) : (eepLatchClock clk s).capCnt = s.capCnt := rfl
@[simp] theorem eepLatchClock_flash (clk : Bool) (s : State) : (eepLatchClock clk s).flash = s.flash := rfl
@[simp] theorem eepLatchClock_rom (clk : Bool) (s : State) : (eepLatchClock clk s).rom = s.rom := rfl
@[simp] theorem eepLatchClock_ram (clk : Bool) (s : State) : (eepLatchClock clk s).ram = s.ram := rfl
@[simp] theorem eepLatchClock_eep (clk : Bool) (s : State) : (eepLatchClock clk s).eep = s.eep := rfl
@[simp] theorem eepLatchClock_shadow (clk : Bool) (s : State) : (eepLatchClock clk s).shadow = s.shadow := rfl
@[simp] theorem eepLatchClock_resident (clk : Bool) (s : State) : (eepLatchClock clk s).resident = s.resident := rfl

/-! ### Frame of `eepEdge`: the interface, the EEPROM and the events change -/

@[simp] theorem eepEdge_active (cs : Bool) (clk : Bool) (di : Bool) (s : State) : (eepEdge cs clk di s).active = s.active :=
    by
  unfold eepEdge; repeat' split
  all_goals simp
@[simp] theorem eepEdge_sessionNo (cs : Bool) (clk : Bool) (di : Bool) (s : State) : (eepEdge cs clk di s).sessionNo = s.sessionNo :=
    by
  unfold eepEdge; repeat' split
  all_goals simp
@[simp] theorem eepEdge_cfg (cs : Bool) (clk : Bool) (di : Bool) (s : State) : (eepEdge cs clk di s).cfg = s.cfg := by
  unfold eepEdge; repeat' split
  all_goals simp
@[simp] theorem eepEdge_inputs (cs : Bool) (clk : Bool) (di : Bool) (s : State) : (eepEdge cs clk di s).inputs = s.inputs :=
    by
  unfold eepEdge; repeat' split
  all_goals simp
@[simp] theorem eepEdge_loadError (cs : Bool) (clk : Bool) (di : Bool) (s : State) : (eepEdge cs clk di s).loadError = s.loadError :=
    by
  unfold eepEdge; repeat' split
  all_goals simp
@[simp] theorem eepEdge_reg (cs : Bool) (clk : Bool) (di : Bool) (s : State) : (eepEdge cs clk di s).reg = s.reg := by
  unfold eepEdge; repeat' split
  all_goals simp
@[simp] theorem eepEdge_map (cs : Bool) (clk : Bool) (di : Bool) (s : State) : (eepEdge cs clk di s).map = s.map := by
  unfold eepEdge; repeat' split
  all_goals simp
@[simp] theorem eepEdge_nmiOut (cs : Bool) (clk : Bool) (di : Bool) (s : State) : (eepEdge cs clk di s).nmiOut = s.nmiOut :=
    by
  unfold eepEdge; repeat' split
  all_goals simp
@[simp] theorem eepEdge_stallOut (cs : Bool) (clk : Bool) (di : Bool) (s : State) : (eepEdge cs clk di s).stallOut = s.stallOut :=
    by
  unfold eepEdge; repeat' split
  all_goals simp
@[simp] theorem eepEdge_drive (cs : Bool) (clk : Bool) (di : Bool) (s : State) : (eepEdge cs clk di s).drive = s.drive :=
    by
  unfold eepEdge; repeat' split
  all_goals simp
@[simp] theorem eepEdge_dma (cs : Bool) (clk : Bool) (di : Bool) (s : State) : (eepEdge cs clk di s).dma = s.dma := by
  unfold eepEdge; repeat' split
  all_goals simp
@[simp] theorem eepEdge_rst (cs : Bool) (clk : Bool) (di : Bool) (s : State) : (eepEdge cs clk di s).rst = s.rst := by
  unfold eepEdge; repeat' split
  all_goals simp
@[simp] theorem eepEdge_frz (cs : Bool) (clk : Bool) (di : Bool) (s : State) : (eepEdge cs clk di s).frz = s.frz := by
  unfold eepEdge; repeat' split
  all_goals simp
@[simp] theorem eepEdge_capCnt (cs : Bool) (clk : Bool) (di : Bool) (s : State) : (eepEdge cs clk di s).capCnt = s.capCnt :=
    by
  unfold eepEdge; repeat' split
  all_goals simp
@[simp] theorem eepEdge_flash (cs : Bool) (clk : Bool) (di : Bool) (s : State) : (eepEdge cs clk di s).flash = s.flash :=
    by
  unfold eepEdge; repeat' split
  all_goals simp
@[simp] theorem eepEdge_rom (cs : Bool) (clk : Bool) (di : Bool) (s : State) : (eepEdge cs clk di s).rom = s.rom := by
  unfold eepEdge; repeat' split
  all_goals simp
@[simp] theorem eepEdge_ram (cs : Bool) (clk : Bool) (di : Bool) (s : State) : (eepEdge cs clk di s).ram = s.ram := by
  unfold eepEdge; repeat' split
  all_goals simp
@[simp] theorem eepEdge_shadow (cs : Bool) (clk : Bool) (di : Bool) (s : State) : (eepEdge cs clk di s).shadow = s.shadow :=
    by
  unfold eepEdge; repeat' split
  all_goals simp
@[simp] theorem eepEdge_resident (cs : Bool) (clk : Bool) (di : Bool) (s : State) : (eepEdge cs clk di s).resident = s.resident :=
    by
  unfold eepEdge; repeat' split
  all_goals simp

/-! ### Frame of `eepLines`: the interface, the EEPROM and the events change -/

@[simp] theorem eepLines_active (cs : Bool) (clk : Bool) (di : Bool) (s : State) : (eepLines cs clk di s).active = s.active :=
    by simp [eepLines]
@[simp] theorem eepLines_sessionNo (cs : Bool) (clk : Bool) (di : Bool) (s : State) : (eepLines cs clk di s).sessionNo = s.sessionNo :=
    by simp [eepLines]
@[simp] theorem eepLines_cfg (cs : Bool) (clk : Bool) (di : Bool) (s : State) : (eepLines cs clk di s).cfg = s.cfg :=
    by simp [eepLines]
@[simp] theorem eepLines_inputs (cs : Bool) (clk : Bool) (di : Bool) (s : State) : (eepLines cs clk di s).inputs = s.inputs :=
    by simp [eepLines]
@[simp] theorem eepLines_loadError (cs : Bool) (clk : Bool) (di : Bool) (s : State) : (eepLines cs clk di s).loadError = s.loadError :=
    by simp [eepLines]
@[simp] theorem eepLines_reg (cs : Bool) (clk : Bool) (di : Bool) (s : State) : (eepLines cs clk di s).reg = s.reg :=
    by simp [eepLines]
@[simp] theorem eepLines_map (cs : Bool) (clk : Bool) (di : Bool) (s : State) : (eepLines cs clk di s).map = s.map :=
    by simp [eepLines]
@[simp] theorem eepLines_nmiOut (cs : Bool) (clk : Bool) (di : Bool) (s : State) : (eepLines cs clk di s).nmiOut = s.nmiOut :=
    by simp [eepLines]
@[simp] theorem eepLines_stallOut (cs : Bool) (clk : Bool) (di : Bool) (s : State) : (eepLines cs clk di s).stallOut = s.stallOut :=
    by simp [eepLines]
@[simp] theorem eepLines_drive (cs : Bool) (clk : Bool) (di : Bool) (s : State) : (eepLines cs clk di s).drive = s.drive :=
    by simp [eepLines]
@[simp] theorem eepLines_dma (cs : Bool) (clk : Bool) (di : Bool) (s : State) : (eepLines cs clk di s).dma = s.dma :=
    by simp [eepLines]
@[simp] theorem eepLines_rst (cs : Bool) (clk : Bool) (di : Bool) (s : State) : (eepLines cs clk di s).rst = s.rst :=
    by simp [eepLines]
@[simp] theorem eepLines_frz (cs : Bool) (clk : Bool) (di : Bool) (s : State) : (eepLines cs clk di s).frz = s.frz :=
    by simp [eepLines]
@[simp] theorem eepLines_capCnt (cs : Bool) (clk : Bool) (di : Bool) (s : State) : (eepLines cs clk di s).capCnt = s.capCnt :=
    by simp [eepLines]
@[simp] theorem eepLines_flash (cs : Bool) (clk : Bool) (di : Bool) (s : State) : (eepLines cs clk di s).flash = s.flash :=
    by simp [eepLines]
@[simp] theorem eepLines_rom (cs : Bool) (clk : Bool) (di : Bool) (s : State) : (eepLines cs clk di s).rom = s.rom :=
    by simp [eepLines]
@[simp] theorem eepLines_ram (cs : Bool) (clk : Bool) (di : Bool) (s : State) : (eepLines cs clk di s).ram = s.ram :=
    by simp [eepLines]
@[simp] theorem eepLines_shadow (cs : Bool) (clk : Bool) (di : Bool) (s : State) : (eepLines cs clk di s).shadow = s.shadow :=
    by simp [eepLines]
@[simp] theorem eepLines_resident (cs : Bool) (clk : Bool) (di : Bool) (s : State) : (eepLines cs clk di s).resident = s.resident :=
    by simp [eepLines]

end Sys2Proof.Machine
end

