-- ==== Sys2Proof/Laws/Memory.lean ====
section
/-!
SUPPORT. The laws of byte stores: what a read finds after each operation, which cells an operation can leave, and that
every operation keeps the canonical form.
-/

namespace Sys2Proof.Machine

/-! ### Reads -/

theorem Memory.find_append (a : Nat) (m k : Memory) :
    Memory.find a (m ++ k) = (Memory.find a m).or (Memory.find a k) := by
  induction m with
  | nil => rfl
  | cons c m ih =>
    by_cases h : c.1 = a
    · simp [Memory.find, h]
    · simp [Memory.find, h, ih]

theorem Memory.find_filter (a : Nat) (p : Host.Cell → Bool) (q : Bool) (hp : ∀ b, p (a, b) = q) (m : Memory) :
    Memory.find a (m.filter p) = if q then Memory.find a m else none := by
  induction m with
  | nil => cases q <;> rfl
  | cons c m ih =>
    obtain ⟨x, b⟩ := c
    by_cases h : x = a
    · subst h
      cases q <;> simp_all [Memory.find]
    · by_cases hc : p (x, b) = true
      · cases q <;> simp_all [Memory.find]
      · cases q <;> simp_all [Memory.find]

theorem Memory.find_erase (a b : Nat) (m : Memory) :
    Memory.find b (Memory.erase a m) = if b = a then none else Memory.find b m := by
  by_cases h : b = a
  · rw [Memory.erase, Memory.find_filter b _ false (by simp [h])]
    simp [h]
  · rw [Memory.erase, Memory.find_filter b _ true (by simp [h])]
    simp [h]

theorem Memory.find_insert (a b : Nat) (v : Byte) (m : Memory) :
    Memory.find b (Memory.insert a v m) = if b = a then some v else Memory.find b m := by
  induction m with
  | nil => simp [Memory.insert, Memory.find, eq_comm]
  | cons c m ih =>
    unfold Memory.insert
    split
    · by_cases h : b = a
      · simp [Memory.find, h]
      · simp [Memory.find, h, Ne.symm h]
    · split
      next hc =>
        by_cases h : b = a
        · simp [Memory.find, h]
        · simp [Memory.find, hc, h, Ne.symm h]
      next => by_cases h : b = a <;> simp_all [Memory.find]

/-- A read after a write: the written byte at the written index, the old cell elsewhere. -/
theorem Memory.find_write (fill : Option Byte) (a b : Nat) (v : Byte) (m : Memory) :
    Memory.find b (Memory.write fill a v m) =
      if b = a then (if fill = some v then none else some v) else Memory.find b m := by
  unfold Memory.write
  split
  · rw [Memory.find_erase]
  · rw [Memory.find_insert]

theorem Memory.find_eq_none {a : Nat} {m : Memory} (h : ∀ c ∈ m, c.1 ≠ a) : Memory.find a m = none := by
  induction m with
  | nil => rfl
  | cons c m ih => simp_all [Memory.find]

theorem Memory.find_run (a base len : Nat) (v : Byte) :
    Memory.find a ((List.range len).map fun k => (base + k, v)) =
      if base ≤ a ∧ a < base + len then some v else none := by
  induction len with
  | zero => rw [if_neg (by omega)]; rfl
  | succ n ih =>
    rw [List.range_succ, List.map_append, Memory.find_append, ih]
    by_cases h : base ≤ a ∧ a < base + n
    · rw [if_pos h, if_pos (by omega)]; rfl
    · rw [if_neg h]
      by_cases h' : base + n = a
      · rw [if_pos (by omega)]; simp [Memory.find, h']
      · rw [if_neg (by omega)]; simp [Memory.find, h']

/-- A read after a fill of a range. -/
theorem Memory.find_fillRange (fill : Option Byte) (base len a : Nat) (v : Byte) (m : Memory) :
    Memory.find a (Memory.fillRange fill base len v m) =
      if base ≤ a ∧ a < base + len then (if fill = some v then none else some v) else Memory.find a m := by
  have hrun : Memory.find a (if fill = some v then [] else (List.range len).map fun k => (base + k, v)) =
      if base ≤ a ∧ a < base + len then (if fill = some v then none else some v) else none := by
    by_cases hf : fill = some v
    · simp [hf, Memory.find]
    · rw [if_neg hf, if_neg hf, Memory.find_run]
  unfold Memory.fillRange
  rw [Memory.find_append, Memory.find_append, hrun,
    Memory.find_filter a (fun c => decide (c.1 < base)) (decide (a < base)) (by simp),
    Memory.find_filter a (fun c => decide (base + len ≤ c.1)) (decide (base + len ≤ a)) (by simp)]
  by_cases h1 : a < base
  · have h2 : ¬(base ≤ a ∧ a < base + len) := by omega
    have h3 : ¬base + len ≤ a := by omega
    simp [h1, h2, h3]
  · by_cases h2 : a < base + len
    · have h3 : base ≤ a ∧ a < base + len := by omega
      have h4 : ¬base + len ≤ a := by omega
      simp [h1, h3, h4]
    · have h3 : ¬(base ≤ a ∧ a < base + len) := by omega
      have h4 : base + len ≤ a := by omega
      simp [h1, h3, h4]

/-! ### Cells -/

theorem Memory.mem_insert {a : Nat} {v : Byte} {m : Memory} {c : Host.Cell} (h : c ∈ Memory.insert a v m) :
    c = (a, v) ∨ c ∈ m := by
  induction m with
  | nil => simpa [Memory.insert] using h
  | cons d m ih =>
    unfold Memory.insert at h
    split at h
    · simpa using h
    · split at h
      · simp only [List.mem_cons] at h ⊢; tauto
      · simp only [List.mem_cons] at h ⊢
        rcases h with h | h
        · exact .inr (.inl h)
        · rcases ih h with h | h
          · exact .inl h
          · exact .inr (.inr h)

theorem Memory.mem_write {fill : Option Byte} {a : Nat} {v : Byte} {m : Memory} {c : Host.Cell}
    (h : c ∈ Memory.write fill a v m) : c = (a, v) ∨ c ∈ m := by
  unfold Memory.write at h
  split at h
  · exact .inr (List.mem_of_mem_filter h)
  · exact Memory.mem_insert h

theorem Memory.mem_fillRange {fill : Option Byte} {base len : Nat} {v : Byte} {m : Memory} {c : Host.Cell}
    (h : c ∈ Memory.fillRange fill base len v m) : (base ≤ c.1 ∧ c.1 < base + len) ∨ c ∈ m := by
  unfold Memory.fillRange at h
  simp only [List.mem_append] at h
  rcases h with h | h | h
  · exact .inr (List.mem_of_mem_filter h)
  · split at h
    · simp at h
    · obtain ⟨k, hk, rfl⟩ := List.mem_map.mp h
      have := List.mem_range.mp hk
      exact .inl (by constructor <;> dsimp only <;> omega)
  · exact .inr (List.mem_of_mem_filter h)

/-! ### Canonical form -/

theorem Memory.wf_nil (fill : Option Byte) : Memory.wf fill [] := ⟨List.Pairwise.nil, by simp⟩

theorem Memory.wf_filter {fill : Option Byte} {m : Memory} (p : Host.Cell → Bool) (h : Memory.wf fill m) :
    Memory.wf fill (m.filter p) :=
  ⟨h.1.filter p, fun c hc => h.2 c (List.mem_of_mem_filter hc)⟩

theorem Memory.wf_insert {fill : Option Byte} {a : Nat} {v : Byte} {m : Memory} (hv : fill ≠ some v)
    (h : Memory.wf fill m) : Memory.wf fill (Memory.insert a v m) := by
  refine ⟨?_, fun c hc => ?_⟩
  · obtain ⟨h, -⟩ := h
    induction m with
    | nil => simp [Memory.insert]
    | cons c m ih =>
      obtain ⟨h1, h2⟩ := List.pairwise_cons.mp h
      unfold Memory.insert
      split
      next hc =>
        refine List.pairwise_cons.mpr ⟨fun d hd => ?_, h⟩
        rcases List.mem_cons.mp hd with rfl | hd
        · exact hc
        · exact Nat.lt_trans hc (h1 d hd)
      next hc =>
        split
        next he => exact List.pairwise_cons.mpr ⟨fun d hd => he ▸ h1 d hd, h2⟩
        next he =>
          refine List.pairwise_cons.mpr ⟨fun d hd => ?_, ih h2⟩
          rcases Memory.mem_insert hd with rfl | hd
          · show c.1 < a
            omega
          · exact h1 d hd
  · rcases Memory.mem_insert hc with rfl | hc
    · exact hv
    · exact h.2 c hc

theorem Memory.wf_write {fill : Option Byte} (a : Nat) (v : Byte) {m : Memory} (h : Memory.wf fill m) :
    Memory.wf fill (Memory.write fill a v m) := by
  unfold Memory.write
  split
  next => exact Memory.wf_filter _ h
  next hv => exact Memory.wf_insert hv h

theorem Memory.wf_fillRange {fill : Option Byte} (base len : Nat) (v : Byte) {m : Memory} (h : Memory.wf fill m) :
    Memory.wf fill (Memory.fillRange fill base len v m) := by
  refine ⟨?_, fun c hc => ?_⟩
  · unfold Memory.fillRange
    refine List.pairwise_append.mpr ⟨h.1.filter _, List.pairwise_append.mpr ⟨?_, h.1.filter _, ?_⟩, ?_⟩
    · split
      · exact List.Pairwise.nil
      · refine List.pairwise_map.mpr (List.pairwise_lt_range.imp fun hab => ?_)
        show base + _ < base + _
        omega
    · intro c hc d hd
      have hd := (List.mem_filter.mp hd).2
      split at hc
      · simp at hc
      · obtain ⟨k, hk, rfl⟩ := List.mem_map.mp hc
        have := List.mem_range.mp hk
        simp only [decide_eq_true_eq] at hd
        show base + k < d.1
        omega
    · intro c hc d hd
      have hc := (List.mem_filter.mp hc).2
      simp only [decide_eq_true_eq] at hc
      rcases List.mem_append.mp hd with hd | hd
      · split at hd
        · simp at hd
        · obtain ⟨k, -, rfl⟩ := List.mem_map.mp hd
          show c.1 < base + k
          omega
      · have hd := (List.mem_filter.mp hd).2
        simp only [decide_eq_true_eq] at hd
        omega
  · unfold Memory.fillRange at hc
    simp only [List.mem_append] at hc
    rcases hc with hc | hc | hc
    · exact h.2 c (List.mem_of_mem_filter hc)
    · split at hc
      · simp at hc
      next hv =>
        obtain ⟨k, -, rfl⟩ := List.mem_map.mp hc
        exact hv
    · exact h.2 c (List.mem_of_mem_filter hc)

theorem Memory.load_keeps {P : Memory → Prop} (fill : Option Byte) (bound : Nat) (cells : List Host.Cell)
    (h0 : P [])
    (hw : ∀ (m : Memory) (c : Host.Cell), c.1 < bound → P m → P (Memory.write fill c.1 c.2 m)) :
    P (Memory.load fill bound cells) := by
  unfold Memory.load
  suffices ∀ m, P m → P (cells.foldl (fun m c => if c.1 < bound then Memory.write fill c.1 c.2 m else m) m) from
    this [] h0
  induction cells with
  | nil => exact fun m hm => hm
  | cons c cells ih =>
    intro m hm
    rw [List.foldl_cons]
    refine ih _ ?_
    split
    next hc => exact hw m c hc hm
    next => exact hm

theorem Memory.wf_load (fill : Option Byte) (bound : Nat) (cells : List Host.Cell) :
    Memory.wf fill (Memory.load fill bound cells) :=
  Memory.load_keeps fill bound cells (Memory.wf_nil fill) fun _ _ _ h => Memory.wf_write _ _ h

theorem Memory.load_inRange (fill : Option Byte) (bound : Nat) (cells : List Host.Cell) :
    ∀ c ∈ Memory.load fill bound cells, c.1 < bound := by
  refine Memory.load_keeps (P := fun m => ∀ c ∈ m, c.1 < bound) fill bound cells (by simp) fun m c hc h d hd => ?_
  rcases Memory.mem_write hd with rfl | hd
  · exact hc
  · exact h d hd

end Sys2Proof.Machine
end

