-- ==== Sys2Proof/Laws/Invariant.lean ====
section
/-!
SUPPORT. What keeps the invariant: each group of `Inv` depends on its own fields only, and each shared operation keeps a
live session sound. The lemmas are about the shared operations; nothing here is about `exec` or `step`.
-/

namespace Sys2Proof.Machine

theorem reduceBank_lt {cfg : Cfg} (h : cfg.accepted) (b : Nat) : (reduceBank cfg b).toNat < cfg.bankCount := by
  obtain ⟨h1, h2, -⟩ := h
  have : b % cfg.bankCount < cfg.bankCount := Nat.mod_lt _ h1
  simp only [reduceBank, BitVec.toNat_ofNat]
  rw [Nat.mod_eq_of_lt (by omega)]
  exact this

theorem accepted_pos {cfg : Cfg} (h : cfg.accepted) : (0 : Byte).toNat < cfg.bankCount := by
  obtain ⟨h1, h2, -⟩ := h; show 0 < _; omega

/-! ### Each group depends on its own fields only -/

theorem StoresCanonical.congr {s t : State} (h : StoresCanonical s) (h1 : t.rom = s.rom := by simp)
    (h2 : t.ram = s.ram := by simp) (h3 : t.eep = s.eep := by simp) (h4 : t.shadow = s.shadow := by simp) :
    StoresCanonical t :=
  ⟨h1 ▸ h.rom, h2 ▸ h.ram, h3 ▸ h.eep, h4 ▸ h.shadow⟩

theorem StoresInRange.congr {s t : State} (h : StoresInRange s) (h0 : t.cfg = s.cfg := by simp)
    (h1 : t.rom = s.rom := by simp) (h2 : t.ram = s.ram := by simp) (h3 : t.eep = s.eep := by simp)
    (h4 : t.shadow = s.shadow := by simp) : StoresInRange t :=
  ⟨by rw [h0, h1]; exact h.rom, by rw [h0, h2]; exact h.ram, by rw [h0, h3]; exact h.eep, by rw [h4]; exact h.shadow⟩

theorem BanksInRange.congr {s t : State} (h : BanksInRange s) (h0 : t.cfg = s.cfg := by simp)
    (h1 : t.reg.bank = s.reg.bank := by simp) (h2 : t.dma.bank = s.dma.bank := by simp) : BanksInRange t :=
  ⟨by rw [h0]; exact h.accepted, by rw [h0, h1]; exact h.bank, by rw [h0, h2]; exact h.dmaBank⟩

theorem DmaSound.congr {s t : State} (h : DmaSound s) (h0 : t.cfg = s.cfg := by simp) (h1 : t.dma = s.dma := by simp)
    (h2 : t.stallOut = s.stallOut := by simp) : DmaSound t := by
  constructor <;> (try rw [h0]) <;> (try rw [h1]) <;> (try rw [h2])
  exacts [h.oneAtATime, h.stallIffRelease, h.inertInCache, h.pendingBound, h.releaseBound]

theorem ResidencySound.congr {s t : State} (h : ResidencySound s) (h0 : t.cfg = s.cfg := by simp)
    (h1 : t.dma = s.dma := by simp) (h2 : t.resident = s.resident := by simp)
    (h3 : t.reg.bank = s.reg.bank := by simp) : ResidencySound t := by
  constructor <;> (try rw [h0]) <;> (try rw [h1]) <;> (try rw [h2]) <;> (try rw [h3])
  exacts [h.all, h.current, h.target]

theorem ResetSound.congr {s t : State} (h : ResetSound s) (h0 : t.cfg = s.cfg := by simp)
    (h1 : t.rst = s.rst := by simp) : ResetSound t := by
  constructor <;> (try rw [h0]) <;> (try rw [h1])
  exacts [h.bound, h.pressedIff, h.releasedIdle]

theorem FreezeSound.congr {s t : State} (h : FreezeSound s) (h0 : t.cfg = s.cfg := by simp)
    (h1 : t.frz = s.frz := by simp) (h2 : t.nmiOut = s.nmiOut := by simp) : FreezeSound t := by
  constructor <;> (try rw [h0]) <;> (try rw [h1]) <;> (try rw [h2])
  exacts [h.btnBound, h.nmiBound, h.idleNoWrites, h.armedFewWrites, h.activeAllWrites, h.nmiOnlyArmed]

theorem CapSound.congr {s t : State} (h : CapSound s) (h0 : t.cfg = s.cfg := by simp)
    (h1 : t.capCnt = s.capCnt := by simp) : CapSound t :=
  by unfold CapSound; rw [h0, h1]; exact h

theorem EepromSound.congr {s t : State} (h : EepromSound s) (h1 : t.eepi = s.eepi := by simp) : EepromSound t := by
  constructor <;> rw [h1]
  exacts [h.deselected, h.cmdBits, h.dataBits]

theorem ForeignAtRest.congr {s t : State} (h : ForeignAtRest s) (h0 : t.cfg = s.cfg := by simp)
    (h1 : t.reg.bank = s.reg.bank := by simp) (h2 : t.reg.ctrl = s.reg.ctrl := by simp)
    (h3 : t.reg.ramexp = s.reg.ramexp := by simp) (h4 : t.frz = s.frz := by simp)
    (h5 : t.nmiOut = s.nmiOut := by simp) (h6 : t.flash = s.flash := by simp) (h7 : t.eepi = s.eepi := by simp) :
    ForeignAtRest t := by
  constructor <;> (try rw [h0]) <;> (try rw [h1]) <;> (try rw [h2]) <;> (try rw [h3]) <;> (try rw [h4, h5]) <;>
    (try rw [h6]) <;> (try rw [h7])
  exacts [h.bank, h.ctrl, h.ramexp, h.freeze, h.flash, h.eepi]

/-! ### A live session -/

/-- A live session with the invariant. -/
structure Live (s : State) : Prop extends Inv s where
  live : s.active = true

theorem Live.of {t : State} (ha : t.active = true) (h1 : StoresCanonical t) (h2 : StoresInRange t)
    (h3 : BanksInRange t) (h4 : DmaSound t) (h5 : ResidencySound t) (h6 : ResetSound t) (h7 : FreezeSound t)
    (h8 : CapSound t) (h9 : EepromSound t) (h10 : ForeignAtRest t) : Live t :=
  ⟨⟨h1, h2, h3, h4, h5, h6, h7, h8, h9, h10, by simp [ha]⟩, ha⟩

/-- An update of fields no group mentions (CARTEN, MAP, drive, events) keeps the invariant. -/
theorem Live.congr {s t : State} (h : Live s) (ha : t.active = s.active := by simp) (h0 : t.cfg = s.cfg := by simp)
    (h1 : t.reg.bank = s.reg.bank := by simp) (h2 : t.reg.ctrl = s.reg.ctrl := by simp)
    (h3 : t.reg.ramexp = s.reg.ramexp := by simp) (h4 : t.frz = s.frz := by simp)
    (h5 : t.nmiOut = s.nmiOut := by simp) (h6 : t.flash = s.flash := by simp) (h7 : t.eepi = s.eepi := by simp)
    (h8 : t.dma = s.dma := by simp) (h9 : t.stallOut = s.stallOut := by simp) (h10 : t.rst = s.rst := by simp)
    (h11 : t.capCnt = s.capCnt := by simp) (h12 : t.resident = s.resident := by simp) (h13 : t.rom = s.rom := by simp)
    (h14 : t.ram = s.ram := by simp) (h15 : t.eep = s.eep := by simp) (h16 : t.shadow = s.shadow := by simp) : Live t
    :=
  .of (ha.trans h.live) (h.canonical.congr h13 h14 h15 h16) (h.inRange.congr h0 h13 h14 h15 h16)
    (h.banks.congr h0 h1 (by rw [h8])) (h.dma.congr h0 h8 h9) (h.residency.congr h0 h8 h12 h1) (h.reset.congr h0 h10)
    (h.freeze.congr h0 h4 h5) (h.cap.congr h0 h11) (h.eeprom.congr h7) (h.foreign.congr h0 h1 h2 h3 h4 h5 h6 h7)

/-! ### The operations, one by one -/

theorem Live.setMap {s : State} (h : Live s) (m : MapMode) : Live (setMap m s) := h.congr
theorem Live.setCarten {s : State} (h : Live s) (b : Bool) : Live (setCarten b s) := h.congr
theorem Live.enableWith {s : State} (h : Live s) (m : MapMode) : Live (enableWith m s) := h.congr
theorem Live.disable {s : State} (h : Live s) : Live (disable s) := h.congr
theorem Live.driveByte {s : State} (h : Live s) (b : Byte) : Live (driveByte b s) := h.congr
theorem Live.driveOption {s : State} (h : Live s) (b) : Live (driveOption b s) := h.congr
theorem Live.romRead {s : State} (h : Live s) (b w o) : Live (romRead b w o s) := h.congr
theorem Live.ramOrRomRead {s : State} (h : Live s) (i o) : Live (ramOrRomRead i o s) := h.congr
theorem Live.emit {s : State} (h : Live s) (e) : Live (emit e s) := h.congr
theorem Live.beginInvocation {s : State} (h : Live s) : Live (beginInvocation s) := h.congr

theorem Live.setCtrl {s : State} (h : Live s) (d : Byte) (hv : writesCtrl s.cfg.variant = true) : Live (setCtrl d s)
    :=
  .of (by simp [h.live]) h.canonical.congr h.inRange.congr h.banks.congr h.dma.congr h.residency.congr h.reset.congr
    h.freeze.congr
    h.cap.congr h.eeprom.congr ⟨h.foreign.bank, by simp [hv], h.foreign.ramexp, h.foreign.freeze, h.foreign.flash,
      h.foreign.eepi⟩

theorem Live.setRamexp {s : State} (h : Live s) (b : Bool)
    (hv : s.cfg.variant = .actionreplay ∨ s.cfg.variant = .supersnapshot5) : Live (setRamexp b s) :=
  .of (by simp [h.live]) h.canonical.congr h.inRange.congr h.banks.congr h.dma.congr h.residency.congr h.reset.congr
    h.freeze.congr
    h.cap.congr h.eeprom.congr ⟨h.foreign.bank, h.foreign.ctrl, by intro h1 h2; simp_all, h.foreign.freeze,
      h.foreign.flash, h.foreign.eepi⟩

theorem Live.rearmCap {s : State} (h : Live s) : Live (rearmCap s) :=
  .of (by simp [h.live]) h.canonical.congr h.inRange.congr h.banks.congr h.dma.congr h.residency.congr h.reset.congr
    h.freeze.congr
    (by have := h.cap; unfold CapSound at *; unfold Machine.rearmCap; split <;> simp_all) h.eeprom.congr
      h.foreign.congr

theorem Live.setBank {s : State} (h : Live s) (nb : Byte) (hn : nb.toNat < s.cfg.bankCount)
    (hv : switchesBank s.cfg.variant = true ∨ nb = 0) : Live (setBank nb s) := by
  obtain ⟨d1, d2, d3, d4, d5⟩ := h.dma
  obtain ⟨r1, r2, r3⟩ := h.residency
  obtain ⟨b1, b2, b3⟩ := h.banks
  refine .of (by simp [h.live]) h.canonical.congr h.inRange.congr ?_ ?_ ?_ h.reset.congr h.freeze.congr
    h.cap.congr h.eeprom.congr ⟨?_, by simpa using h.foreign.ctrl, by simpa using h.foreign.ramexp, by simpa using
      h.foreign.freeze, by simpa using h.foreign.flash, by simpa using h.foreign.eepi⟩
  · unfold Machine.setBank dmaRequest
    split
    · exact ⟨b1, b2, b3⟩
    · split
      · exact ⟨b1, hn, b3⟩
      · dsimp only; split <;> exact ⟨b1, hn, hn⟩
  · unfold Machine.setBank dmaRequest
    split
    · exact ⟨d1, d2, d3, d4, d5⟩
    · split
      · exact ⟨d1, d2, d3, d4, d5⟩
      next hf =>
        dsimp only; split
        · constructor <;> simp_all
        · constructor <;> simp_all
  · unfold Machine.setBank dmaRequest
    split
    · exact ⟨r1, r2, r3⟩
    · split
      · constructor <;> simp_all
      next hf =>
        dsimp only; split
        · constructor <;> simp_all
        · constructor <;> simp_all
  · simp only [setBank_cfg]
    intro hv'
    rcases hv with hv | rfl
    · simp [hv] at hv'
    · unfold Machine.setBank dmaRequest
      split
      · exact h.foreign.bank hv'
      · split
        · rfl
        · dsimp only; split <;> rfl

theorem Live.selectBank {s : State} (h : Live s) (b : Nat) (hv : switchesBank s.cfg.variant = true) : Live
    (selectBank b s) :=
  h.setBank _ (reduceBank_lt h.banks.accepted b) (.inl hv)

theorem Live.dmaTick {s : State} (h : Live s) : Live (dmaTick s) := by
  obtain ⟨d1, d2, d3, d4, d5⟩ := h.dma
  obtain ⟨r1, r2, r3⟩ := h.residency
  obtain ⟨b1, b2, b3⟩ := h.banks
  refine .of (by simp [h.live]) h.canonical.congr h.inRange.congr ?_ ?_ ?_ h.reset.congr h.freeze.congr
    h.cap.congr h.eeprom.congr h.foreign.congr
  · constructor
    · simpa using b1
    · simpa using b2
    · unfold Machine.dmaTick; repeat' split
      all_goals exact b3
  · unfold Machine.dmaTick; split
    · constructor <;> simp_all
    next hr =>
      constructor <;> simp_all
      exact Nat.le_of_succ_le (d5)
    · split
      · constructor <;> simp_all
      · constructor <;> simp_all
        omega
      · exact ⟨d1, d2, d3, d4, d5⟩
  · unfold Machine.dmaTick; split
    · constructor <;> simp_all
    · constructor <;> simp_all
    · split
      · constructor <;> simp_all
      · constructor <;> simp_all
      · exact ⟨r1, r2, r3⟩

theorem Live.capTick {s : State} (h : Live s) : Live (capTick s) := by
  refine .of (by simp [h.live]) h.canonical.congr h.inRange.congr h.banks.congr h.dma.congr h.residency.congr
    h.reset.congr h.freeze.congr
    ?_ h.eeprom.congr h.foreign.congr
  have := h.cap
  unfold CapSound at *; unfold Machine.capTick
  split
  · split
    · simpa using this
    · dsimp only; omega
  · exact this

theorem Live.nmiTick {s : State} (h : Live s) : Live (nmiTick s) := by
  obtain ⟨f1, f2, f3, f4, f5, f6⟩ := h.freeze
  refine .of (by simp [h.live]) h.canonical.congr h.inRange.congr h.banks.congr h.dma.congr h.residency.congr
    h.reset.congr ?_
    h.cap.congr h.eeprom.congr ⟨by simpa using h.foreign.bank, by simpa using h.foreign.ctrl, by simpa using
      h.foreign.ramexp, ?_, by simpa using h.foreign.flash, by simpa using h.foreign.eepi⟩
  · unfold Machine.nmiTick
    split
    · split
      · constructor <;> simp_all
      · constructor <;> simp_all; omega
    · exact ⟨f1, f2, f3, f4, f5, f6⟩
  · intro hv
    rw [nmiTick_cfg] at hv
    simp only [Machine.nmiTick, hv]; exact h.foreign.freeze hv

theorem Live.buttonTick {s : State} (h : Live s) (b) : Live (buttonTick b s) := by
  obtain ⟨f1, f2, f3, f4, f5, f6⟩ := h.freeze
  refine .of (by simp [h.live]) h.canonical.congr h.inRange.congr h.banks.congr h.dma.congr h.residency.congr
    h.reset.congr ?_
    h.cap.congr h.eeprom.congr ⟨by simpa using h.foreign.bank, by simpa using h.foreign.ctrl, by simpa using
      h.foreign.ramexp, ?_, by simpa using h.foreign.flash, by simpa using h.foreign.eepi⟩
  · unfold Machine.buttonTick
    split
    · split
      · split
        · split
          · unfold buttonEdge
            split
            · constructor <;> simp_all [Config.freezeWrites]
            · constructor <;> simp_all
          · constructor <;> simp_all
        · exact ⟨f1, f2, f3, f4, f5, f6⟩
      · constructor <;> simp_all
    · exact ⟨f1, f2, f3, f4, f5, f6⟩
  · intro hv
    rw [buttonTick_cfg] at hv
    simp only [Machine.buttonTick, hv]; exact h.foreign.freeze hv

/-- A freezer may change its freeze state to any sound one. -/
theorem Live.withFreeze {s : State} (h : Live s) (f : FreezeState) (n : Bool)
    (hf : FreezeSound { s with frz := f, nmiOut := n }) (hv : isFreezer s.cfg.variant = true) : Live
    { s with frz := f, nmiOut := n } :=
  .of (by simp [h.live]) h.canonical.congr h.inRange.congr h.banks.congr h.dma.congr h.residency.congr h.reset.congr
    hf
    h.cap.congr h.eeprom.congr ⟨h.foreign.bank, h.foreign.ctrl, h.foreign.ramexp, by simp [hv], h.foreign.flash,
      h.foreign.eepi⟩

theorem Live.mapFrozen {s : State} (h : Live s) : Live (mapFrozen s) := by
  unfold Machine.mapFrozen
  have hp := accepted_pos h.banks.accepted
  split
  next hv => exact ((h.setBank 0 hp (.inr rfl)).setCtrl 0 (by simp [hv, writesCtrl])).setRamexp _ (by simp [hv])
  next hv => exact ((h.setBank 0 hp (.inr rfl)).setCtrl 0 (by simp [hv, writesCtrl])).setRamexp _ (by simp [hv])
  all_goals exact h

theorem Live.freezeObserve {s : State} (h : Live s) (rw : Bool) : Live (freezeObserve rw s) := by
  obtain ⟨f1, f2, f3, f4, f5, f6⟩ := h.freeze
  unfold Machine.freezeObserve
  split
  next hc =>
    simp only [Bool.and_eq_true, decide_eq_true_eq] at hc
    obtain ⟨hv, ha⟩ := hc
    split
    · exact h.withFreeze _ s.nmiOut (by constructor <;> simp_all [Config.freezeWrites]) hv
    · split
      · unfold enterActive
        exact Live.mapFrozen (Live.enableWith (h.withFreeze _ false
          (by constructor <;> simp_all [Config.freezeWrites]) hv) _)
      · exact h.withFreeze _ s.nmiOut (by constructor <;> simp_all [Config.freezeWrites]; omega) hv
  next => exact h

theorem Live.afterOperation {s : State} (h : Live s) (S) : Live (afterOperation S s) := by
  unfold Machine.afterOperation; split
  · exact h
  · exact h.freezeObserve _

theorem Live.reinit {s : State} (h : Live s) : Live (reinit s) := by
  have hp := accepted_pos h.banks.accepted
  have hfrz : isFreezer s.cfg.variant = false → s.frz.btnCnt = 0 := fun hv => by rw [(h.foreign.freeze hv).1]
  have heep : s.cfg.variant ≠ .gmod2 → s.eepi.wen = false := fun hv => by rw [h.foreign.eepi hv]; rfl
  have key : ∀ res ev, res = (if s.cfg.fitsInCache then allBanks s.cfg else [0]) →
      Live { reinitProtocol s with resident := res, events := ev } := by
    intro res ev hres
    refine .of h.live (h.canonical.congr rfl rfl rfl rfl) (h.inRange.congr rfl rfl rfl rfl rfl)
      ⟨h.banks.accepted, hp, hp⟩
      ⟨.inl rfl, rfl, fun _ => ⟨rfl, rfl⟩, by simp [reinitProtocol], by simp [reinitProtocol]⟩
      ⟨fun hf => by simp_all [reinitProtocol], fun hf => by simp_all [reinitProtocol], by simp [reinitProtocol]⟩
      (h.reset.congr rfl rfl)
      ⟨h.freeze.btnBound, by simp [reinitProtocol], by simp [reinitProtocol], by simp [reinitProtocol], by simp
        [reinitProtocol], by simp [reinitProtocol]⟩
      (by simp [CapSound, reinitProtocol, initialCapCnt]) ?_ ?_
    · constructor <;> simp [reinitProtocol, EepromIface.initial]
    · constructor <;> simp [reinitProtocol, EepromIface.initial, initialRamexp]
      · exact hfrz
      · exact heep
  unfold Machine.reinit
  split
  next hf => exact key (allBanks s.cfg) s.events (by simp [hf])
  next hf => exact key [0] _ (by simp [hf])

theorem Live.withRst {s : State} (h : Live s) (r) (hr : ResetSound { s with rst := r }) : Live { s with rst := r } :=
  .of (by simp [h.live]) h.canonical.congr h.inRange.congr h.banks.congr h.dma.congr h.residency.congr hr
    h.freeze.congr
    h.cap.congr h.eeprom.congr h.foreign.congr

theorem Live.resetTick {s : State} (h : Live s) (r : Bool) : Live (resetTick r s) := by
  obtain ⟨r1, r2, r3⟩ := h.reset
  unfold Machine.resetTick
  split
  · split
    · split
      · exact Live.reinit (h.withRst _ (by constructor <;> simp_all; omega))
      · refine h.withRst _ (by constructor <;> simp_all; omega)
    · refine h.withRst _ (by constructor <;> simp_all)
  · refine h.withRst _ (by constructor <;> simp_all)

theorem Live.ticks {s : State} (h : Live s) (env) : Live (ticks env s) :=
  h.dmaTick.capTick.nmiTick.buttonTick _ |>.resetTick _

/-- A write below the bound leaves every cell below it. -/
theorem Memory.write_inRange {fill : Option Byte} {bound a : Nat} {v : Byte} {m : Memory} (hm : ∀ c ∈ m, c.1 < bound)
    (ha : a < bound) : ∀ c ∈ Memory.write fill a v m, c.1 < bound := by
  intro c hc
  rcases Memory.mem_write (fill := fill) (a := a) (v := v) (m := m) hc with rfl | hc
  · exact ha
  · exact hm c hc

theorem Live.withRam {s : State} (h : Live s) (a : Nat) (v : Byte) (ha : a < ramSize s.cfg) : Live
    (memWrite .ram a v s) :=
  .of (by simp [h.live])
    ⟨h.canonical.rom, Memory.wf_write _ _ h.canonical.ram, h.canonical.eep, h.canonical.shadow⟩
    ⟨h.inRange.rom, Memory.write_inRange (fill := fillOf .ram) (v := v) h.inRange.ram ha, h.inRange.eep,
      h.inRange.shadow⟩
    h.banks.congr h.dma.congr h.residency.congr h.reset.congr h.freeze.congr h.cap.congr h.eeprom.congr
    h.foreign.congr

theorem Live.withEep {s : State} (h : Live s) (a : Nat) (v : Byte) (ha : a < 2 * eepWords s.cfg) : Live
    (memWrite .eep a v s) :=
  .of (by simp [h.live])
    ⟨h.canonical.rom, h.canonical.ram, Memory.wf_write _ _ h.canonical.eep, h.canonical.shadow⟩
    ⟨h.inRange.rom, h.inRange.ram, Memory.write_inRange (fill := fillOf .eep) (v := v) h.inRange.eep ha,
      h.inRange.shadow⟩
    h.banks.congr h.dma.congr h.residency.congr h.reset.congr h.freeze.congr h.cap.congr h.eeprom.congr
    h.foreign.congr

theorem Live.withShadow {s : State} (h : Live s) (a : Nat) (v : Byte) (ha : a < 512) : Live (memWrite .shadow a v s)
    :=
  .of (by simp [h.live])
    ⟨h.canonical.rom, h.canonical.ram, h.canonical.eep, Memory.wf_write _ _ h.canonical.shadow⟩
    ⟨h.inRange.rom, h.inRange.ram, h.inRange.eep, Memory.write_inRange (fill := fillOf .shadow) (v := v)
      h.inRange.shadow ha⟩
    h.banks.congr h.dma.congr h.residency.congr h.reset.congr h.freeze.congr h.cap.congr h.eeprom.congr
    h.foreign.congr

theorem Live.recordShadow {s : State} (h : Live s) (S) : Live (recordShadow S s) := by
  unfold Machine.recordShadow
  split
  · exact h
  · have := S.addrLo.isLt
    split
    · exact h.withShadow _ _ (by simp [shadowIndex]; omega)
    · exact h.withShadow _ _ (by simp [shadowIndex]; omega)
    all_goals exact h

theorem romIndex_lt {cfg : Cfg} {b : Byte} (hb : b.toNat < cfg.bankCount) (w : RomWindow) (off : Offset) : romIndex b
    w off < romSize cfg := by
  have := off.isLt
  unfold romIndex romSize
  cases w <;> simp only <;> omega

theorem Live.withRom {s : State} (h : Live s) (m : Memory) (e) (hw : Memory.wf (fillOf .rom) m)
    (hr : ∀ c ∈ m, c.1 < romSize s.cfg) : Live { s with rom := m, events := e } :=
  .of h.live ⟨hw, h.canonical.ram, h.canonical.eep, h.canonical.shadow⟩
    ⟨hr, h.inRange.ram, h.inRange.eep, h.inRange.shadow⟩
    h.banks.congr h.dma.congr h.residency.congr h.reset.congr h.freeze.congr h.cap.congr h.eeprom.congr
      h.foreign.congr

theorem Live.flashProgram {s : State} (h : Live s) (w : RomWindow) (off : Offset) (v : Byte) : Live
    (flashProgram s.reg.bank w off v s) :=
  h.withRom _ _
    (Memory.wf_write (romIndex s.reg.bank w (off &&& offMask s.cfg w)) (romByte s.reg.bank w off s &&& v)
      h.canonical.rom)
    (Memory.write_inRange (fill := fillOf .rom) (v := romByte s.reg.bank w off s &&& v) h.inRange.rom
      (romIndex_lt h.banks.bank w (off &&& offMask s.cfg w)))

theorem eraseBank_ok {cfg : Cfg} (ha : cfg.accepted) (w : RomWindow) (l : List Nat) (hl : ∀ b ∈ l, b < cfg.bankCount)
    (m : Memory) (hw : Memory.wf (fillOf .rom) m) (hr : ∀ c ∈ m, c.1 < romSize cfg) : Memory.wf (fillOf .rom)
    (l.foldl (eraseBank w) m) ∧ ∀ c ∈ l.foldl (eraseBank w) m, c.1 < romSize cfg := by
  induction l generalizing m with
  | nil => exact ⟨hw, hr⟩
  | cons b l ih =>
    rw [List.foldl_cons]
    refine ih (fun b hb => hl b (.tail _ hb)) _ (Memory.wf_fillRange _ _ _ hw) ?_
    intro c hc
    have hb := hl b (.head _)
    obtain ⟨-, h2, -⟩ := ha
    rcases Memory.mem_fillRange hc with hc | hc
    · have : (BitVec.ofNat 8 b).toNat = b := by rw [BitVec.toNat_ofNat]; omega
      revert hc
      unfold romIndex romSize
      rw [this]
      cases w <;> simp only <;> intro hc <;> simp at hc <;> omega
    · exact hr c hc

theorem Live.sectorErase {s : State} (h : Live s) (w b) : Live (sectorErase w b s) := by
  have := eraseBank_ok h.banks.accepted w (List.range' (sectorFirst s.cfg b) (sectorCount s.cfg b)) (by
    intro k hk
    simp [List.mem_range', sectorCount] at hk
    omega) s.rom h.canonical.rom h.inRange.rom
  exact h.withRom _ _ this.1 this.2

theorem Live.setFlash {s : State} (h : Live s) (w f) (hv : s.cfg.variant = .easyflash) : Live (setFlash w f s) := by
  refine .of (by simp [h.live]) h.canonical.congr h.inRange.congr h.banks.congr h.dma.congr h.residency.congr
    h.reset.congr h.freeze.congr
    h.cap.congr h.eeprom.congr ⟨by simpa using h.foreign.bank, by simpa using h.foreign.ctrl, by simpa using
      h.foreign.ramexp, by simpa using h.foreign.freeze, by simp [hv], by simpa using h.foreign.eepi⟩

theorem Live.flashWrite {s : State} (h : Live s) (w off v) (hv : s.cfg.variant = .easyflash) : Live
    (flashWrite w off v s) := by
  unfold Machine.flashWrite
  split
  · split
    · exact h.setFlash _ _ hv
    · exact h
  · exact h.setFlash _ _ hv
  · exact h.setFlash _ _ hv
  · exact (h.flashProgram w off v).setFlash _ _ (by simpa using hv)
  · exact h.setFlash _ _ hv
  · exact h.setFlash _ _ hv
  · split
    · exact (h.sectorErase w _).setFlash _ _ (by simpa using hv)
    · exact h.setFlash _ _ hv

theorem Live.flashWindowWrite {s : State} (h : Live s) (w off v) (hv : s.cfg.variant = .easyflash) : Live
    (flashWindowWrite w off v s) := by
  unfold Machine.flashWindowWrite
  split
  · exact h.flashWrite w off v hv
  · exact h

/-! ### EEPROM -/

theorem Live.setEepi {s : State} (h : Live s) (e : EepromIface) (hv : s.cfg.variant = .gmod2)
    (he : EepromSound (setEepi e s)) : Live (setEepi e s) :=
  .of (by simp [h.live]) h.canonical.congr h.inRange.congr h.banks.congr h.dma.congr h.residency.congr h.reset.congr
    h.freeze.congr
    h.cap.congr he ⟨h.foreign.bank, h.foreign.ctrl, h.foreign.ramexp, h.foreign.freeze, h.foreign.flash, by simp [hv]⟩

/-- The invariant but for the interface. -/
structure Shell (s : State) : Prop where
  ok : ∃ e, Live (Machine.setEepi e s)
  gm : s.cfg.variant = .gmod2

theorem Shell.live {s} (h : Shell s) (he : EepromSound s) : Live s := by
  obtain ⟨⟨e, h⟩, hv⟩ := h
  have := h.setEepi s.eepi hv (he.congr rfl)
  exact this

theorem Live.shell {s} (h : Live s) (hv : s.cfg.variant = .gmod2) : Shell s := ⟨⟨s.eepi, h⟩, hv⟩
theorem Shell.setEepi {s} (h : Shell s) (e) : Shell (setEepi e s) := by obtain ⟨⟨e', h⟩, hv⟩ := h; exact ⟨⟨e', h⟩, hv⟩

theorem Shell.eepStoreByte {s} (h : Shell s) (i b) (hi : i < 2048) : Shell (eepStoreByte i b s) := by
  unfold Machine.eepStoreByte
  split
  · exact h
  · obtain ⟨⟨e', h⟩, hv⟩ := h
    exact ⟨⟨e', (h.withEep i b (by simp [eepWords, hv, hi])).emit _⟩, hv⟩

theorem Shell.eepStoreWord {s} (h : Shell s) (i b) (hi : i < 1024) : Shell (eepStoreWord i b s) :=
  (h.eepStoreByte _ _ (by omega)).eepStoreByte _ _ (by omega)

theorem Shell.eepStoreAll {s} (h : Shell s) (b) : Shell (eepStoreAll b s) :=
  eepStoreAll_keeps (P := Shell) b s h fun k t hk ht => ht.eepStoreWord k b (by simpa [eepWords, h.gm] using hk)

theorem Shell.eepCommit {s} (h : Shell s) : Shell (eepCommit s) := by
  unfold Machine.eepCommit eepReady
  refine Shell.setEepi ?_ _
  split
  · split
    · exact h.eepStoreWord _ _ s.eepi.addr.isLt
    · exact h.eepStoreAll _
  · exact h

theorem Shell.eepCommand {s} (h : Shell s) (op a) : Shell (eepCommand op a s) := by
  unfold Machine.eepCommand eepReady
  split
  · exact h.setEepi _
  · exact h.setEepi _
  · refine Shell.setEepi ?_ _
    split
    · refine h.eepStoreWord _ _ ?_
      simp [eepWords, h.gm]; omega
    · exact h
  · split
    · exact h.setEepi _
    · exact h.setEepi _
    · refine Shell.setEepi ?_ _
      split
      · exact h.eepStoreAll _
      · exact h
    · exact h.setEepi _

theorem Shell.eepClock {s} (h : Shell s) (di) : Shell (eepClock di s) := by
  unfold Machine.eepClock eepTakeBit eepShiftOut
  repeat' split
  all_goals first
    | exact h.setEepi _
    | exact h
    | exact Shell.eepCommand (h.setEepi _) _ _
    | exact Shell.eepCommit (h.setEepi _)

/-- What a clock edge leaves in the interface. -/
theorem eepClock_sound {s : State} (h : EepromSound s) (hcs : s.eepi.cs = true) (di) : EepromSound (eepClock di s) ∧
    (eepClock di s).eepi.cs = true := by
  obtain ⟨e1, e2, e3⟩ := h
  unfold Machine.eepClock
  split
  · split
    · refine ⟨by constructor <;> simp_all, by simp_all⟩
    · exact ⟨⟨e1, e2, e3⟩, hcs⟩
  next hp =>
    split
    · unfold eepCommand eepReady eepTakeBit
      repeat' split
      all_goals refine ⟨by constructor <;> simp_all, by simp_all⟩
    next hn =>
      unfold eepTakeBit
      refine ⟨by constructor <;> simp_all; omega, by simp_all⟩
  next hp =>
    split
    · unfold eepCommit eepReady eepTakeBit
      repeat' split
      all_goals refine ⟨by constructor <;> simp_all, by simp_all⟩
    next hn =>
      unfold eepTakeBit
      refine ⟨by constructor <;> simp_all; omega, by simp_all⟩
  next hp =>
    split
    · unfold eepCommit eepReady eepTakeBit
      repeat' split
      all_goals refine ⟨by constructor <;> simp_all, by simp_all⟩
    next hn =>
      unfold eepTakeBit
      refine ⟨by constructor <;> simp_all; omega, by simp_all⟩
  next hp =>
    unfold eepShiftOut
    split
    · refine ⟨by constructor <;> simp_all, by simp_all⟩
    · refine ⟨by constructor <;> simp_all; omega, by simp_all⟩
  · exact ⟨⟨e1, e2, e3⟩, hcs⟩

theorem Live.eepLines {s : State} (h : Live s) (hv : s.cfg.variant = .gmod2) (cs clk di) : Live (eepLines cs clk di s)
    := by
  obtain ⟨e1, e2, e3⟩ := h.eeprom
  have hs := h.shell hv
  have hs1 : Shell (eepChipSelect cs s) := by
    unfold eepChipSelect; repeat' split
    · exact hs.setEepi _
    · exact hs.setEepi _
    · exact hs
  have hs2 : Shell (eepLatchData cs di (eepChipSelect cs s)) := hs1.setEepi _
  have he2 : EepromSound (eepLatchData cs di (eepChipSelect cs s)) := by
    unfold eepLatchData eepChipSelect
    cases cs <;> cases hc : s.eepi.cs <;> simp [eepSelect, eepDeselect]
    · constructor <;> simp_all
    · constructor <;> simp_all
    · constructor <;> simp_all
    · constructor <;> simp_all
  have hs3 : Shell (eepEdge cs clk di (eepLatchData cs di (eepChipSelect cs s))) := by
    unfold eepEdge; split
    · exact hs2.eepClock _
    · exact hs2
  have he3 : EepromSound (eepEdge cs clk di (eepLatchData cs di (eepChipSelect cs s))) := by
    unfold eepEdge; split
    next hc =>
      refine (eepClock_sound he2 ?_ _).1
      simp at hc
      simp [eepLatchData, hc]
    · exact he2
  refine (hs3.setEepi _).live ?_
  exact ⟨he3.deselected, he3.cmdBits, he3.dataBits⟩

end Sys2Proof.Machine
end

