-- ==== Sys2Proof/Laws/Ops.lean ====
section
/-!
SUPPORT. One lemma for each shared operation that says once everything it can do, and the injectivity of the store
numberings. The frames of these operations, one field at a time, are in Laws/Frames.lean.
-/

namespace Sys2Proof.Machine

/-! ### Numberings -/

theorem romIndex_inj (b b' : Byte) (w w' : RomWindow) (o o' : Offset) :
    romIndex b w o = romIndex b' w' o' ↔ b = b' ∧ w = w' ∧ o = o' := by
  have := o.isLt
  have := o'.isLt
  refine ⟨fun h => ?_, by rintro ⟨rfl, rfl, rfl⟩; rfl⟩
  rw [← BitVec.toNat_inj, ← BitVec.toNat_inj]
  cases w <;> cases w' <;> simp only [romIndex] at h <;> first | exact ⟨by omega, rfl, by omega⟩ | omega

theorem physIndex_inj (il : Bool) (b b' : Byte) (w w' : RomWindow) (p p' : Offset) :
    physIndex il b w p = physIndex il b' w' p' ↔ b = b' ∧ w = w' ∧ p = p' := by
  have := p.isLt
  have := p'.isLt
  refine ⟨fun h => ?_, by rintro ⟨rfl, rfl, rfl⟩; rfl⟩
  rw [← BitVec.toNat_inj, ← BitVec.toNat_inj]
  cases il <;> cases w <;> cases w' <;> simp only [physIndex] at h <;> first | exact ⟨by omega, rfl, by omega⟩ | omega

theorem shadowIndex_inj (a b : Bool) (x y : Byte) : shadowIndex a x = shadowIndex b y ↔ a = b ∧ x = y := by
  have := x.isLt
  have := y.isLt
  cases a <;> cases b <;> simp [shadowIndex, BitVec.toNat_inj] <;> omega

/-! ### Stores -/

/-- A write replaces the cells of its own space and of no other. -/
theorem storeOf_memWrite (s : State) (sp sp' : Space) (a : Nat) (v : Byte) :
    storeOf (memWrite sp a v s) sp' = if sp' = sp then Memory.write (fillOf sp) a v (storeOf s sp) else storeOf s sp' := by
  cases sp <;> cases sp' <;> rfl

/-- A flash program writes one cell of ROM and reports it. -/
theorem flashProgram_eq (bank : Byte) (w : RomWindow) (off : Offset) (v : Byte) (s : State) :
    flashProgram bank w off v s =
      { s with
        rom := Memory.write none (romIndex bank w (off &&& offMask s.cfg w)) (romByte bank w off s &&& v) s.rom
        events := s.events ++ [.persistFlash bank w (off &&& offMask s.cfg w) (romByte bank w off s &&& v)] } := rfl

/-- The offset mask of ROM-low in a ZAXXON session. -/
@[simp] theorem offMask_l_zaxxon {cfg : Cfg} (h : cfg.variant = .zaxxon) : offMask cfg .l = 0x0FFF := if_pos h

@[simp] theorem offMask_l_other {cfg : Cfg} (h : cfg.variant ≠ .zaxxon) : offMask cfg .l = cfg.offMaskL := if_neg h

@[simp] theorem offMask_h (cfg : Cfg) : offMask cfg .h = cfg.offMaskH := rfl

/-- A ROM-window write of EASYFLASH reaches the command state machine, or does nothing where CARTEN = 0 or the window has no
data. -/
theorem flashWindowWrite_cases (w : RomWindow) (off : Offset) (d : Byte) (s : State) :
    s.reg.carten = true ∧ hasWindow s.cfg w = true ∧ flashWindowWrite w off d s = flashWrite w off d s ∨
      (s.reg.carten = false ∨ hasWindow s.cfg w = false) ∧ flashWindowWrite w off d s = s := by
  unfold flashWindowWrite
  cases s.reg.carten <;> cases hasWindow s.cfg w <;> simp

/-- One EEPROM byte: stored and reported if it changes, else nothing. -/
theorem eepStoreByte_cases (i : Nat) (b : Byte) (s : State) :
    memRead .eep i s = b ∧ eepStoreByte i b s = s ∨
      memRead .eep i s ≠ b ∧
        eepStoreByte i b s =
          { s with eep := Memory.write (some 0xFF) i b s.eep, events := s.events ++ [.persistEep i b] } := by
  unfold eepStoreByte
  by_cases h : memRead .eep i s = b
  · exact .inl ⟨h, if_pos h⟩
  · exact .inr ⟨h, if_neg h⟩

/-- The shadow write: on a CPU-half write to an I/O window, at the address of that window. -/
theorem recordShadow_cases (S : BusCycleSample) (s : State) :
    recordShadow S s = s ∨
      S.vid = false ∧ S.rw = false ∧
        ∃ io2, S.win = (if io2 then .io2 else .io1) ∧
          recordShadow S s = memWrite .shadow (shadowIndex io2 S.addrLo) S.data s := by
  unfold recordShadow
  split
  · exact .inl rfl
  next h =>
    simp only [Bool.or_eq_true, not_or, Bool.not_eq_true] at h
    split
    next hw => exact .inr ⟨h.1, h.2, false, hw, rfl⟩
    next hw => exact .inr ⟨h.1, h.2, true, hw, rfl⟩
    all_goals exact .inl rfl

/-! ### Driving -/

theorem driveOption_eq (o : Option Byte) (s : State) : driveOption o s = { s with drive := o.or s.drive } := by
  cases o <;> rfl

theorem romRead_eq (b : Byte) (w : RomWindow) (off : Offset) (s : State) :
    romRead b w off s = driveOption (romReadByte b w off s) s := by
  unfold romRead romReadByte
  split <;> rfl

theorem ramOrRomRead_eq (i : Nat) (off : Offset) (s : State) :
    ramOrRomRead i off s =
      driveOption
        (if s.reg.carten && s.reg.ramexp then some (memRead .ram i s) else romReadByte s.reg.bank .l off s) s := by
  unfold ramOrRomRead romReadByte hasWindow
  cases s.reg.carten <;> cases s.reg.ramexp <;> cases s.cfg.hasL <;> rfl

/-! ### Controllers -/

/-- `DmaRequest`: nothing in cache, a new prefetch during a stall, else the trigger delay started again. -/
theorem dmaRequest_cases (nb : Byte) (s : State) :
    s.cfg.fitsInCache = true ∧ dmaRequest nb s = s ∨
      s.cfg.fitsInCache = false ∧ s.dma.release ≠ none ∧
        dmaRequest nb s =
          { s with
            dma := { s.dma with bank := nb, release := some s.cfg.dmaReleaseCount }
            events := s.events ++ [.prefetch nb]
            resident := [nb] } ∨
      s.cfg.fitsInCache = false ∧ s.dma.release = none ∧
        dmaRequest nb s = { s with dma := { s.dma with bank := nb, pending := some s.cfg.dmaTriggerDelay } } := by
  unfold dmaRequest
  cases hf : s.cfg.fitsInCache
  · cases hr : s.dma.release
    · exact .inr (.inr ⟨rfl, rfl, rfl⟩)
    · exact .inr (.inl ⟨rfl, by simp, rfl⟩)
  · exact .inl ⟨rfl, rfl⟩

/-- `DmaTick`: release, count down to release, trigger, count down to trigger, or nothing. -/
theorem dmaTick_cases (s : State) :
    s.dma.release = some 0 ∧ dmaTick s = { s with stallOut := false, dma := { s.dma with release := none } } ∨
      (∃ n, s.dma.release = some (n + 1) ∧ dmaTick s = { s with dma := { s.dma with release := some n } }) ∨
      s.dma.release = none ∧ s.dma.pending = some 0 ∧
        dmaTick s =
          { s with
            stallOut := true
            dma := { s.dma with pending := none, release := some s.cfg.dmaReleaseCount }
            events := s.events ++ [.prefetch s.dma.bank]
            resident := [s.dma.bank] } ∨
      (∃ n, s.dma.release = none ∧ s.dma.pending = some (n + 1) ∧
        dmaTick s = { s with dma := { s.dma with pending := some n } }) ∨
      s.dma.release = none ∧ s.dma.pending = none ∧ dmaTick s = s := by
  unfold dmaTick
  split
  next h => exact .inl ⟨h, rfl⟩
  next n h => exact .inr (.inl ⟨n, h, rfl⟩)
  next h =>
    split
    next h' => exact .inr (.inr (.inl ⟨h, h', rfl⟩))
    next n h' => exact .inr (.inr (.inr (.inl ⟨n, h, h', rfl⟩)))
    next h' => exact .inr (.inr (.inr (.inr ⟨h, h', rfl⟩)))

/-- `CapTick`: the expiry, a count, or nothing. -/
theorem capTick_cases (s : State) :
    s.cfg.autoDisableCycles ≠ none ∧ s.reg.carten = true ∧ s.capCnt = 0 ∧ capTick s = disable s ∨
      s.cfg.autoDisableCycles ≠ none ∧ s.reg.carten = true ∧ s.capCnt ≠ 0 ∧
        capTick s = { s with capCnt := s.capCnt - 1 } ∨
      (s.cfg.autoDisableCycles = none ∨ s.reg.carten = false) ∧ capTick s = s := by
  unfold capTick
  cases hc : s.cfg.autoDisableCycles
  · exact .inr (.inr ⟨.inl rfl, rfl⟩)
  · cases he : s.reg.carten
    · exact .inr (.inr ⟨.inr rfl, rfl⟩)
    · by_cases h : s.capCnt = 0
      · exact .inl ⟨by simp, rfl, h, if_pos h⟩
      · exact .inr (.inl ⟨by simp, rfl, h, if_neg h⟩)

/-- `NmiTick`: the expiry, a count, or nothing. -/
theorem nmiTick_cases (s : State) :
    isFreezer s.cfg.variant = true ∧ s.nmiOut = true ∧
        (s.frz.nmiCnt = 0 ∧ nmiTick s = { s with nmiOut := false } ∨
          s.frz.nmiCnt ≠ 0 ∧ nmiTick s = { s with frz := { s.frz with nmiCnt := s.frz.nmiCnt - 1 } }) ∨
      (isFreezer s.cfg.variant = false ∨ s.nmiOut = false) ∧ nmiTick s = s := by
  unfold nmiTick
  cases hf : isFreezer s.cfg.variant
  · exact .inr ⟨.inl rfl, rfl⟩
  · cases hn : s.nmiOut
    · exact .inr ⟨.inr rfl, rfl⟩
    · by_cases h : s.frz.nmiCnt = 0
      · exact .inl ⟨rfl, rfl, .inl ⟨h, if_pos h⟩⟩
      · exact .inl ⟨rfl, rfl, .inr ⟨h, if_neg h⟩⟩

/-- `ButtonTick` of a freezer: an edge at the threshold, a count below it, nothing above it, zero when released. -/
theorem buttonTick_cases (b : Bool) (s : State) :
    isFreezer s.cfg.variant = false ∧ buttonTick b s = s ∨
      isFreezer s.cfg.variant = true ∧
        (b = false ∧ buttonTick b s = { s with frz := { s.frz with btnCnt := 0 } } ∨
          b = true ∧ s.frz.btnCnt + 1 = s.cfg.buttonDebounceN ∧
            buttonTick b s = buttonEdge { s with frz := { s.frz with btnCnt := s.frz.btnCnt + 1 } } ∨
          b = true ∧ s.frz.btnCnt + 1 < s.cfg.buttonDebounceN ∧
            buttonTick b s = { s with frz := { s.frz with btnCnt := s.frz.btnCnt + 1 } } ∨
          b = true ∧ s.cfg.buttonDebounceN ≤ s.frz.btnCnt ∧ buttonTick b s = s) := by
  unfold buttonTick
  cases hf : isFreezer s.cfg.variant
  · exact .inl ⟨rfl, rfl⟩
  · refine .inr ⟨rfl, ?_⟩
    cases b
    · exact .inl ⟨rfl, rfl⟩
    · simp only [if_true]
      by_cases h : s.frz.btnCnt < s.cfg.buttonDebounceN
      · by_cases h' : s.frz.btnCnt + 1 = s.cfg.buttonDebounceN
        · exact .inr (.inl ⟨trivial, h', by rw [if_pos h, if_pos h']⟩)
        · exact .inr (.inr (.inl ⟨trivial, by omega, by rw [if_pos h, if_neg h']⟩))
      · exact .inr (.inr (.inr ⟨trivial, by omega, by rw [if_neg h]⟩))

/-- `FreezeObserve`: only an armed freezer observes, and only the third write in a row moves it on. -/
theorem freezeObserve_cases (rw : Bool) (s : State) :
    (isFreezer s.cfg.variant = false ∨ s.frz.fs ≠ .armed) ∧ freezeObserve rw s = s ∨
      isFreezer s.cfg.variant = true ∧ s.frz.fs = .armed ∧
        (rw = true ∧ freezeObserve rw s = { s with frz := { s.frz with wrCnt := 0 } } ∨
          rw = false ∧ s.frz.wrCnt = 2 ∧
            freezeObserve rw s = enterActive { s with frz := { s.frz with wrCnt := 3 } } ∨
          rw = false ∧ s.frz.wrCnt ≠ 2 ∧
            freezeObserve rw s = { s with frz := { s.frz with wrCnt := s.frz.wrCnt + 1 } }) := by
  unfold freezeObserve
  cases hf : isFreezer s.cfg.variant
  · exact .inl ⟨.inl rfl, rfl⟩
  · by_cases hs : s.frz.fs = .armed
    · refine .inr ⟨rfl, hs, ?_⟩
      rw [if_pos (by simp [hs])]
      cases rw
      · by_cases h : s.frz.wrCnt = 2
        · exact .inr (.inl ⟨rfl, h, by simp [h, Config.freezeWrites]⟩)
        · exact .inr (.inr ⟨rfl, h, by simp [h, Config.freezeWrites]⟩)
      · exact .inl ⟨rfl, rfl⟩
    · exact .inl ⟨.inr hs, by simp [hs]⟩

/-- `ResetTick`: reinitialisation in the tick that reaches the threshold, and else nothing but the monitor's own state. -/
theorem resetTick_cases (r : Bool) (s : State) :
    r = true ∧ s.rst.cnt + 1 = s.cfg.resetDebounceN ∧
        resetTick r s = reinit { s with rst := { cnt := s.rst.cnt + 1, pressed := true, released := false } } ∨
      ¬(r = true ∧ s.rst.cnt + 1 = s.cfg.resetDebounceN) ∧ ∃ m, resetTick r s = { s with rst := m } := by
  unfold resetTick
  cases r
  · exact .inr ⟨by simp, _, rfl⟩
  · simp only [if_true]
    by_cases h : s.rst.cnt + 1 = s.cfg.resetDebounceN
    · exact .inl ⟨trivial, h, by rw [if_pos (by omega), if_pos h]⟩
    · refine .inr ⟨by simp [h], ?_⟩
      split
      · exact ⟨_, rfl⟩
      · exact ⟨_, rfl⟩

/-! ### Presenting a sample -/

/-- A configuration carried over to a variant is of that variant. -/
@[simp] theorem forVariant_variant (cfg : Cfg) (v : Variant) : (cfg.forVariant v).variant = v := by
  unfold Cfg.forVariant
  split
  · assumption
  · rfl

/-- A session put into a variant is of that variant; its inputs and its stores stay. -/
theorem inVariant_eq (v : Variant) (s : State) :
    (inVariant v s).cfg = s.cfg.forVariant v ∧ (inVariant v s).inputs = s.inputs ∧ (inVariant v s).rom = s.rom ∧
      (inVariant v s).ram = s.ram ∧ (inVariant v s).eep = s.eep ∧ (inVariant v s).shadow = s.shadow := by
  unfold inVariant Cfg.forVariant reinitProtocol
  split <;> exact ⟨rfl, rfl, rfl, rfl, rfl, rfl⟩

/-! ### Operations -/

/-- What no operation changes: the configuration, the session, its inputs, the reset monitor, freeze control, the shadow
bytes. -/
theorem exec_keeps {i : Instr} {s t : State} (h : exec i s = .next t) :
    t.cfg = s.cfg ∧ t.active = s.active ∧ t.sessionNo = s.sessionNo ∧ t.loadError = s.loadError ∧
      t.inputs = s.inputs ∧ t.rst = s.rst ∧ t.frz = s.frz ∧ t.shadow = s.shadow ∧ t.nmiOut = s.nmiOut := by
  cases i <;> simp only [exec] at h <;> cases h
  all_goals first
    | exact ⟨rfl, rfl, rfl, rfl, rfl, rfl, rfl, rfl, rfl⟩
    | (repeat' split) <;> simp [romReadHiOrMirror]

end Sys2Proof.Machine
end

