-- ==== Sys2Proof/Laws/PerInstr.lean ====
section
/-!
SUPPORT. The statement made once for each operation: its encoding matches its row of the opcode table
(30_encoding R106, R107).
-/

namespace Sys2Proof

/-! ### A dispatch word under a mask -/

/-- Masking a packed word masks its fields. -/
theorem dispatchWord_and (v : Variant) (S : BusCycleSample) (mv : BitVec 4) (md : Byte)
    (mrw mba mvid mio2 mio1 mromh mroml : BitVec 1) (mh : BitVec 5) (ml : Byte) :
    dispatchWord v S &&& (mv ++ (md ++ mrw ++ mba ++ mvid ++ mio2 ++ mio1 ++ mromh ++ mroml ++ mh ++ ml)) =
      (v.tag &&& mv) ++
        ((S.data &&& md) ++ (BitVec.ofBool S.rw &&& mrw) ++ (BitVec.ofBool S.ba &&& mba) ++
          (BitVec.ofBool S.vid &&& mvid) ++ (BitVec.ofBool S.io2 &&& mio2) ++ (BitVec.ofBool S.io1 &&& mio1) ++
          (BitVec.ofBool S.romh &&& mromh) ++ (BitVec.ofBool S.roml &&& mroml) ++ (S.addrHi &&& mh) ++
          (S.addrLo &&& ml)) := by
  refine BitVec.and_append.trans (congrArg ((v.tag &&& mv) ++ ·) ?_)
  simp only [BusCycleSample.toWord]
  exact BitVec.and_append.trans (congrArg (· ++ _) (BitVec.and_append.trans (congrArg (· ++ _) (BitVec.and_append.trans
    (congrArg (· ++ _) (BitVec.and_append.trans (congrArg (· ++ _) (BitVec.and_append.trans (congrArg (· ++ _)
    (BitVec.and_append.trans (congrArg (· ++ _) (BitVec.and_append.trans (congrArg (· ++ _) (BitVec.and_append.trans
    (congrArg (· ++ _) BitVec.and_append)))))))))))))))

theorem and_roml (v : Variant) (rw : Bool) (off : Offset) (d : Byte) :
    dispatchWord v (romSample .roml rw off d) &&& 0xF00A6000 = v.tag ++ (if rw then 0x0082000#28 else 0x0002000#28) := by
  refine (dispatchWord_and v _ 0xF 0 1 0 1 0 0 1 1 0 0).trans ?_
  cases rw <;> simp [romSample, sampleOf, BitVec.and_zero] <;> cases v <;> decide

theorem and_romh (v : Variant) (rw : Bool) (off : Offset) (d : Byte) :
    dispatchWord v (romSample .romh rw off d) &&& 0xF00A4000 = v.tag ++ (if rw then 0x0084000#28 else 0x0004000#28) := by
  refine (dispatchWord_and v _ 0xF 0 1 0 1 0 0 1 0 0 0).trans ?_
  cases rw <;> simp [romSample, sampleOf, BitVec.and_zero] <;> cases v <;> decide

theorem and_io1 (v : Variant) (rw : Bool) (al d : Byte) :
    dispatchWord v (ioSample .io1 rw al d) &&& 0xF00AE000 = v.tag ++ (if rw then 0x0088000#28 else 0x0008000#28) := by
  refine (dispatchWord_and v _ 0xF 0 1 0 1 0 1 1 1 0 0).trans ?_
  cases rw <;> simp [ioSample, sampleOf, BitVec.and_zero] <;> cases v <;> decide

theorem and_io2 (v : Variant) (rw : Bool) (al d : Byte) :
    dispatchWord v (ioSample .io2 rw al d) &&& 0xF00BE000 = v.tag ++ (if rw then 0x0090000#28 else 0x0010000#28) := by
  refine (dispatchWord_and v _ 0xF 0 1 0 1 1 1 1 1 0 0).trans ?_
  cases rw <;> simp [ioSample, sampleOf, BitVec.and_zero] <;> cases v <;> decide

/-- Address bit 1 alone is left of the low address lines. -/
theorem and_bit1 (al : Byte) : al &&& 2 = if al.getLsbD 1 then 2 else 0 := by revert al; decide

theorem and_io1_bit1 (v : Variant) (al d : Byte) :
    dispatchWord v (ioSample .io1 false al d) &&& 0xF00AE002 =
      v.tag ++ (if al.getLsbD 1 then 0x0008002#28 else 0x0008000#28) := by
  refine (dispatchWord_and v _ 0xF 0 1 0 1 0 1 1 1 0 2).trans ?_
  simp only [ioSample, sampleOf, and_bit1, show d &&& 0 = 0 from BitVec.and_zero]
  cases al.getLsbD 1 <;> cases v <;> decide

/-! ### The family -/

namespace Laws

/-- The encoding of a well-formed operation, under the mask of its row, is the pattern of its row; `IGN` has no row. -/
def EncodedWordMatchesRow.Statement (i : Instr) : Prop :=
  i.wellFormed = true →
    i = .ign ∨ ∃ row ∈ opcodeTable, row.mnemonic = i.mnemonic ∧ encode i &&& row.mask = row.pattern

/-- A row that the encoding matches. -/
theorem matchesRow {i : Instr} (row : OpcodeRow) (hm : row ∈ opcodeTable)
    (hn : row.mnemonic = i.mnemonic) (he : encode i &&& row.mask = row.pattern) :
    EncodedWordMatchesRow.Statement i :=
  fun _ => .inr ⟨row, hm, hn, he⟩

theorem EncodedWordMatchesRow.fxRomlR (off : Offset) : EncodedWordMatchesRow.Statement (.fxRomlR off) :=
  matchesRow ⟨"FX.ROML.R", 0xF00A6000, 0x00082000⟩ (by decide) rfl ((and_roml .fixed true _ _).trans (by decide))

theorem EncodedWordMatchesRow.fxRomhR (off : Offset) : EncodedWordMatchesRow.Statement (.fxRomhR off) :=
  matchesRow ⟨"FX.ROMH.R", 0xF00A4000, 0x00084000⟩ (by decide) rfl ((and_romh .fixed true _ _).trans (by decide))

theorem EncodedWordMatchesRow.mdRomlR (off : Offset) : EncodedWordMatchesRow.Statement (.mdRomlR off) :=
  matchesRow ⟨"MD.ROML.R", 0xF00A6000, 0x10082000⟩ (by decide) rfl ((and_roml .magicdesk true _ _).trans (by decide))

theorem EncodedWordMatchesRow.mdIo1W (al : Byte) (d : Byte) : EncodedWordMatchesRow.Statement (.mdIo1W al d) :=
  matchesRow ⟨"MD.IO1.W", 0xF00AE000, 0x10008000⟩ (by decide) rfl ((and_io1 .magicdesk false _ _).trans (by decide))

theorem EncodedWordMatchesRow.gsRomlR (off : Offset) : EncodedWordMatchesRow.Statement (.gsRomlR off) :=
  matchesRow ⟨"GS.ROML.R", 0xF00A6000, 0x20082000⟩ (by decide) rfl ((and_roml .c64gs true _ _).trans (by decide))

theorem EncodedWordMatchesRow.gsIo1W (al : Byte) (d : Byte) : EncodedWordMatchesRow.Statement (.gsIo1W al d) :=
  matchesRow ⟨"GS.IO1.W", 0xF00AE000, 0x20008000⟩ (by decide) rfl ((and_io1 .c64gs false _ _).trans (by decide))

theorem EncodedWordMatchesRow.gsIo1R (al : Byte) : EncodedWordMatchesRow.Statement (.gsIo1R al) :=
  matchesRow ⟨"GS.IO1.R", 0xF00AE000, 0x20088000⟩ (by decide) rfl ((and_io1 .c64gs true _ _).trans (by decide))

theorem EncodedWordMatchesRow.ocRomlR (off : Offset) : EncodedWordMatchesRow.Statement (.ocRomlR off) :=
  matchesRow ⟨"OC.ROML.R", 0xF00A6000, 0x30082000⟩ (by decide) rfl ((and_roml .ocean true _ _).trans (by decide))

theorem EncodedWordMatchesRow.ocRomhR (off : Offset) : EncodedWordMatchesRow.Statement (.ocRomhR off) :=
  matchesRow ⟨"OC.ROMH.R", 0xF00A4000, 0x30084000⟩ (by decide) rfl ((and_romh .ocean true _ _).trans (by decide))

theorem EncodedWordMatchesRow.ocIo1W (al : Byte) (d : Byte) : EncodedWordMatchesRow.Statement (.ocIo1W al d) :=
  matchesRow ⟨"OC.IO1.W", 0xF00AE000, 0x30008000⟩ (by decide) rfl ((and_io1 .ocean false _ _).trans (by decide))

theorem EncodedWordMatchesRow.coRomlR (off : Offset) : EncodedWordMatchesRow.Statement (.coRomlR off) :=
  matchesRow ⟨"CO.ROML.R", 0xF00A6000, 0x40082000⟩ (by decide) rfl ((and_roml .comal80 true _ _).trans (by decide))

theorem EncodedWordMatchesRow.coRomhR (off : Offset) : EncodedWordMatchesRow.Statement (.coRomhR off) :=
  matchesRow ⟨"CO.ROMH.R", 0xF00A4000, 0x40084000⟩ (by decide) rfl ((and_romh .comal80 true _ _).trans (by decide))

theorem EncodedWordMatchesRow.coIo1W (al : Byte) (d : Byte) : EncodedWordMatchesRow.Statement (.coIo1W al d) :=
  matchesRow ⟨"CO.IO1.W", 0xF00AE000, 0x40008000⟩ (by decide) rfl ((and_io1 .comal80 false _ _).trans (by decide))

theorem EncodedWordMatchesRow.huRomlR (off : Offset) : EncodedWordMatchesRow.Statement (.huRomlR off) :=
  matchesRow ⟨"HU.ROML.R", 0xF00A6000, 0x50082000⟩ (by decide) rfl ((and_roml .hucky true _ _).trans (by decide))

theorem EncodedWordMatchesRow.huIo1W (al : Byte) (d : Byte) : EncodedWordMatchesRow.Statement (.huIo1W al d) :=
  matchesRow ⟨"HU.IO1.W", 0xF00AE000, 0x50008000⟩ (by decide) rfl ((and_io1 .hucky false _ _).trans (by decide))

theorem EncodedWordMatchesRow.prRomlR (off : Offset) : EncodedWordMatchesRow.Statement (.prRomlR off) :=
  matchesRow ⟨"PR.ROML.R", 0xF00A6000, 0x60082000⟩ (by decide) rfl ((and_roml .prophet true _ _).trans (by decide))

theorem EncodedWordMatchesRow.prIo2W (al : Byte) (d : Byte) : EncodedWordMatchesRow.Statement (.prIo2W al d) :=
  matchesRow ⟨"PR.IO2.W", 0xF00BE000, 0x60010000⟩ (by decide) rfl ((and_io2 .prophet false _ _).trans (by decide))

theorem EncodedWordMatchesRow.sbRomlR (off : Offset) : EncodedWordMatchesRow.Statement (.sbRomlR off) :=
  matchesRow ⟨"SB.ROML.R", 0xF00A6000, 0x70082000⟩ (by decide) rfl ((and_roml .simons true _ _).trans (by decide))

theorem EncodedWordMatchesRow.sbRomhR (off : Offset) : EncodedWordMatchesRow.Statement (.sbRomhR off) :=
  matchesRow ⟨"SB.ROMH.R", 0xF00A4000, 0x70084000⟩ (by decide) rfl ((and_romh .simons true _ _).trans (by decide))

theorem EncodedWordMatchesRow.sbIo1W (al : Byte) (d : Byte) : EncodedWordMatchesRow.Statement (.sbIo1W al d) :=
  matchesRow ⟨"SB.IO1.W", 0xF00AE000, 0x70008000⟩ (by decide) rfl ((and_io1 .simons false _ _).trans (by decide))

theorem EncodedWordMatchesRow.sbIo1R (al : Byte) : EncodedWordMatchesRow.Statement (.sbIo1R al) :=
  matchesRow ⟨"SB.IO1.R", 0xF00AE000, 0x70088000⟩ (by decide) rfl ((and_io1 .simons true _ _).trans (by decide))

theorem EncodedWordMatchesRow.diRomlR (off : Offset) : EncodedWordMatchesRow.Statement (.diRomlR off) :=
  matchesRow ⟨"DI.ROML.R", 0xF00A6000, 0x80082000⟩ (by decide) rfl ((and_roml .dinamic true _ _).trans (by decide))

theorem EncodedWordMatchesRow.diIo1R (al : Byte) : EncodedWordMatchesRow.Statement (.diIo1R al) :=
  matchesRow ⟨"DI.IO1.R", 0xF00AE000, 0x80088000⟩ (by decide) rfl ((and_io1 .dinamic true _ _).trans (by decide))

theorem EncodedWordMatchesRow.epRomlR (off : Offset) : EncodedWordMatchesRow.Statement (.epRomlR off) :=
  matchesRow ⟨"EP.ROML.R", 0xF00A6000, 0x90082000⟩ (by decide) rfl ((and_roml .epyx true _ _).trans (by decide))

theorem EncodedWordMatchesRow.epIo1R (al : Byte) : EncodedWordMatchesRow.Statement (.epIo1R al) :=
  matchesRow ⟨"EP.IO1.R", 0xF00AE000, 0x90088000⟩ (by decide) rfl ((and_io1 .epyx true _ _).trans (by decide))

theorem EncodedWordMatchesRow.epIo2R (al : Byte) : EncodedWordMatchesRow.Statement (.epIo2R al) :=
  matchesRow ⟨"EP.IO2.R", 0xF00BE000, 0x90090000⟩ (by decide) rfl ((and_io2 .epyx true _ _).trans (by decide))

theorem EncodedWordMatchesRow.zxRomlR (off : Offset) : EncodedWordMatchesRow.Statement (.zxRomlR off) :=
  matchesRow ⟨"ZX.ROML.R", 0xF00A6000, 0xC0082000⟩ (by decide) rfl ((and_roml .zaxxon true _ _).trans (by decide))

theorem EncodedWordMatchesRow.zxRomhR (off : Offset) : EncodedWordMatchesRow.Statement (.zxRomhR off) :=
  matchesRow ⟨"ZX.ROMH.R", 0xF00A4000, 0xC0084000⟩ (by decide) rfl ((and_romh .zaxxon true _ _).trans (by decide))

theorem EncodedWordMatchesRow.efRomlR (off : Offset) : EncodedWordMatchesRow.Statement (.efRomlR off) :=
  matchesRow ⟨"EF.ROML.R", 0xF00A6000, 0xA0082000⟩ (by decide) rfl ((and_roml .easyflash true _ _).trans (by decide))

theorem EncodedWordMatchesRow.efRomhR (off : Offset) : EncodedWordMatchesRow.Statement (.efRomhR off) :=
  matchesRow ⟨"EF.ROMH.R", 0xF00A4000, 0xA0084000⟩ (by decide) rfl ((and_romh .easyflash true _ _).trans (by decide))

theorem EncodedWordMatchesRow.efIo1WBank (al : Byte) (d : Byte) : EncodedWordMatchesRow.Statement (.efIo1WBank al d) := by
  intro h
  refine matchesRow ⟨"EF.IO1.W.BANK", 0xF00AE002, 0xA0008000⟩ (by decide) rfl
    ((and_io1_bit1 .easyflash al d).trans ?_) h
  simp only [Instr.wellFormed, Bool.not_eq_true'] at h
  rw [h]
  decide

theorem EncodedWordMatchesRow.efIo1WCtrl (al : Byte) (d : Byte) : EncodedWordMatchesRow.Statement (.efIo1WCtrl al d) := by
  intro h
  refine matchesRow ⟨"EF.IO1.W.CTRL", 0xF00AE002, 0xA0008002⟩ (by decide) rfl
    ((and_io1_bit1 .easyflash al d).trans ?_) h
  simp only [Instr.wellFormed] at h
  rw [h]
  decide

theorem EncodedWordMatchesRow.efIo2R (al : Byte) : EncodedWordMatchesRow.Statement (.efIo2R al) :=
  matchesRow ⟨"EF.IO2.R", 0xF00BE000, 0xA0090000⟩ (by decide) rfl ((and_io2 .easyflash true _ _).trans (by decide))

theorem EncodedWordMatchesRow.efIo2W (al : Byte) (d : Byte) : EncodedWordMatchesRow.Statement (.efIo2W al d) :=
  matchesRow ⟨"EF.IO2.W", 0xF00BE000, 0xA0010000⟩ (by decide) rfl ((and_io2 .easyflash false _ _).trans (by decide))

theorem EncodedWordMatchesRow.efRomlW (off : Offset) (d : Byte) : EncodedWordMatchesRow.Statement (.efRomlW off d) :=
  matchesRow ⟨"EF.ROML.W", 0xF00A6000, 0xA0002000⟩ (by decide) rfl ((and_roml .easyflash false _ _).trans (by decide))

theorem EncodedWordMatchesRow.efRomhW (off : Offset) (d : Byte) : EncodedWordMatchesRow.Statement (.efRomhW off d) :=
  matchesRow ⟨"EF.ROMH.W", 0xF00A4000, 0xA0004000⟩ (by decide) rfl ((and_romh .easyflash false _ _).trans (by decide))

theorem EncodedWordMatchesRow.gmRomlR (off : Offset) : EncodedWordMatchesRow.Statement (.gmRomlR off) :=
  matchesRow ⟨"GM.ROML.R", 0xF00A6000, 0xB0082000⟩ (by decide) rfl ((and_roml .gmod2 true _ _).trans (by decide))

theorem EncodedWordMatchesRow.gmIo1W (al : Byte) (d : Byte) : EncodedWordMatchesRow.Statement (.gmIo1W al d) :=
  matchesRow ⟨"GM.IO1.W", 0xF00AE000, 0xB0008000⟩ (by decide) rfl ((and_io1 .gmod2 false _ _).trans (by decide))

theorem EncodedWordMatchesRow.gmIo1R (al : Byte) : EncodedWordMatchesRow.Statement (.gmIo1R al) :=
  matchesRow ⟨"GM.IO1.R", 0xF00AE000, 0xB0088000⟩ (by decide) rfl ((and_io1 .gmod2 true _ _).trans (by decide))

theorem EncodedWordMatchesRow.ffRomlR (off : Offset) : EncodedWordMatchesRow.Statement (.ffRomlR off) :=
  matchesRow ⟨"FF.ROML.R", 0xF00A6000, 0xD0082000⟩ (by decide) rfl ((and_roml .freezeframe true _ _).trans (by decide))

theorem EncodedWordMatchesRow.ffRomhR (off : Offset) : EncodedWordMatchesRow.Statement (.ffRomhR off) :=
  matchesRow ⟨"FF.ROMH.R", 0xF00A4000, 0xD0084000⟩ (by decide) rfl ((and_romh .freezeframe true _ _).trans (by decide))

theorem EncodedWordMatchesRow.ffIo1R (al : Byte) : EncodedWordMatchesRow.Statement (.ffIo1R al) :=
  matchesRow ⟨"FF.IO1.R", 0xF00AE000, 0xD0088000⟩ (by decide) rfl ((and_io1 .freezeframe true _ _).trans (by decide))

theorem EncodedWordMatchesRow.ffIo2R (al : Byte) : EncodedWordMatchesRow.Statement (.ffIo2R al) :=
  matchesRow ⟨"FF.IO2.R", 0xF00BE000, 0xD0090000⟩ (by decide) rfl ((and_io2 .freezeframe true _ _).trans (by decide))

theorem EncodedWordMatchesRow.arRomlR (off : Offset) : EncodedWordMatchesRow.Statement (.arRomlR off) :=
  matchesRow ⟨"AR.ROML.R", 0xF00A6000, 0xE0082000⟩ (by decide) rfl ((and_roml .actionreplay true _ _).trans (by decide))

theorem EncodedWordMatchesRow.arRomlW (off : Offset) (d : Byte) : EncodedWordMatchesRow.Statement (.arRomlW off d) :=
  matchesRow ⟨"AR.ROML.W", 0xF00A6000, 0xE0002000⟩ (by decide) rfl ((and_roml .actionreplay false _ _).trans (by decide))

theorem EncodedWordMatchesRow.arRomhR (off : Offset) : EncodedWordMatchesRow.Statement (.arRomhR off) :=
  matchesRow ⟨"AR.ROMH.R", 0xF00A4000, 0xE0084000⟩ (by decide) rfl ((and_romh .actionreplay true _ _).trans (by decide))

theorem EncodedWordMatchesRow.arRomhW (off : Offset) (d : Byte) : EncodedWordMatchesRow.Statement (.arRomhW off d) :=
  matchesRow ⟨"AR.ROMH.W", 0xF00A4000, 0xE0004000⟩ (by decide) rfl ((and_romh .actionreplay false _ _).trans (by decide))

theorem EncodedWordMatchesRow.arIo1W (al : Byte) (d : Byte) : EncodedWordMatchesRow.Statement (.arIo1W al d) :=
  matchesRow ⟨"AR.IO1.W", 0xF00AE000, 0xE0008000⟩ (by decide) rfl ((and_io1 .actionreplay false _ _).trans (by decide))

theorem EncodedWordMatchesRow.arIo2R (al : Byte) : EncodedWordMatchesRow.Statement (.arIo2R al) :=
  matchesRow ⟨"AR.IO2.R", 0xF00BE000, 0xE0090000⟩ (by decide) rfl ((and_io2 .actionreplay true _ _).trans (by decide))

theorem EncodedWordMatchesRow.arIo2W (al : Byte) (d : Byte) : EncodedWordMatchesRow.Statement (.arIo2W al d) :=
  matchesRow ⟨"AR.IO2.W", 0xF00BE000, 0xE0010000⟩ (by decide) rfl ((and_io2 .actionreplay false _ _).trans (by decide))

theorem EncodedWordMatchesRow.ssRomlR (off : Offset) : EncodedWordMatchesRow.Statement (.ssRomlR off) :=
  matchesRow ⟨"SS.ROML.R", 0xF00A6000, 0xF0082000⟩ (by decide) rfl ((and_roml .supersnapshot5 true _ _).trans (by decide))

theorem EncodedWordMatchesRow.ssRomlW (off : Offset) (d : Byte) : EncodedWordMatchesRow.Statement (.ssRomlW off d) :=
  matchesRow ⟨"SS.ROML.W", 0xF00A6000, 0xF0002000⟩ (by decide) rfl ((and_roml .supersnapshot5 false _ _).trans (by decide))

theorem EncodedWordMatchesRow.ssRomhR (off : Offset) : EncodedWordMatchesRow.Statement (.ssRomhR off) :=
  matchesRow ⟨"SS.ROMH.R", 0xF00A4000, 0xF0084000⟩ (by decide) rfl ((and_romh .supersnapshot5 true _ _).trans (by decide))

theorem EncodedWordMatchesRow.ssIo1W (al : Byte) (d : Byte) : EncodedWordMatchesRow.Statement (.ssIo1W al d) :=
  matchesRow ⟨"SS.IO1.W", 0xF00AE000, 0xF0008000⟩ (by decide) rfl ((and_io1 .supersnapshot5 false _ _).trans (by decide))

theorem EncodedWordMatchesRow.ssIo1R (al : Byte) : EncodedWordMatchesRow.Statement (.ssIo1R al) :=
  matchesRow ⟨"SS.IO1.R", 0xF00AE000, 0xF0088000⟩ (by decide) rfl ((and_io1 .supersnapshot5 true _ _).trans (by decide))

theorem EncodedWordMatchesRow.vidRomhR (off : Offset) : EncodedWordMatchesRow.Statement (.vidRomhR off) :=
  matchesRow ⟨"VID.ROMH.R", 0x000A4000, 0x000A4000⟩ (by decide) rfl
    ((dispatchWord_and _ _ 0 0 1 0 1 0 0 1 0 0 0).trans (by simp [Instr.sample, romSample, sampleOf]))

theorem EncodedWordMatchesRow.vidIgnW : EncodedWordMatchesRow.Statement .vidIgnW :=
  matchesRow ⟨"VID.IGN.W", 0x000A0000, 0x00020000⟩ (by decide) rfl
    ((dispatchWord_and _ _ 0 0 1 0 1 0 0 0 0 0 0).trans (by simp [Instr.sample, romSample, sampleOf]))

theorem EncodedWordMatchesRow.vidIgnNr : EncodedWordMatchesRow.Statement .vidIgnNr :=
  matchesRow ⟨"VID.IGN.NR", 0x000A4000, 0x000A0000⟩ (by decide) rfl
    ((dispatchWord_and _ _ 0 0 1 0 1 0 0 1 0 0 0).trans (by simp [Instr.sample, romSample, sampleOf]))

theorem EncodedWordMatchesRow.ign : EncodedWordMatchesRow.Statement .ign := fun _ => .inl rfl

end Laws

end Sys2Proof
end

