-- ==== Sys2Proof/Tests/Slice0.lean ====
section
/-!
SUPPORT. Tests of one step or one word each, their expected values from the worked examples of the spec's rules, and for
every statement with hypotheses a witness that its hypotheses can hold together.
-/

namespace Sys2Proof.Tests

open Sys2Proof.Machine Sys2Proof.Claims

/-! ### Helpers -/

/-- The state after the answer, if it is a next state. -/
def after (s : State) (o : Host.Outcome State Fault Refusal) : State :=
  match o with
  | .next t => t
  | .fault _ => s
  | .refused _ => s

/-- The state after one invocation with the dispatch word `w`. -/
def afterWord (s : State) (w : Nat) : State := after s (step (s.withFetchWord 32 w))

/-- A session of variant `v` with its default parameters, `n` banks of ROM-low and ROM-high data and a few bytes of ROM. -/
def session (v : Variant) (n : Nat) : State :=
  { State.reset with
    cfg := { Cfg.defaultFor v with bankCount := n, hasH := true }
    capCnt := initialCapCnt (Cfg.defaultFor v)
    rom :=
      [(romIndex 0 .l 0x10, 0x3C), (romIndex 0 .l 0x20, 0x11), (romIndex 0 .l 0x234, 0x12), (romIndex 0 .l 0x1F34, 0x13),
        (romIndex 0 .h 0x123, 0x14), (romIndex 1 .l 0, 0x15), (romIndex 1 .l 0x100, 0x16), (romIndex 1 .h 0x10, 0x17),
        (romIndex 1 .l 0x1E20, 0x18)] }

/-- The session with another active bank. -/
def inBank (b : Byte) (s : State) : State := { s with reg := { s.reg with bank := b } }

/-- The session with the RAM exported. -/
def exported (s : State) : State := { s with reg := { s.reg with ramexp := true } }

/-- The environment of one stimulus line. -/
def lineEnv (x : StimulusLine) : Env := envOf (stimulusSample x) x.rst x.btn

/-- The session with one line as its next input. -/
def presented (s : State) (x : StimulusLine) : State := { s with inputs := [stimulusInput x] }

/-- `R ROML $0010`. -/
def readLine : StimulusLine := { dir := .r, window := .roml, addr := 0x10 }

/-- `W IO1 $02 #$07`. -/
def writeLine : StimulusLine := { dir := .w 0x07, window := .io1, addr := 0x02 }

/-- `V ROMH $0123`. -/
def videoLine : StimulusLine := { dir := .v, window := .romh, addr := 0x123 }

/-! ### Decoding: the words of the examples of 30_encoding to 46_video_window -/

/-- R170, R171. -/
theorem test_decode_fixed : decode 0x000C2000 = .fxRomlR 0 ∧ decode 0x000C5FFF = .fxRomhR 0x1FFF := by decide

/-- R172, R173. -/
theorem test_decode_magicdesk : decode 0x100C2010 = .mdRomlR 0x10 ∧ decode 0x14148000 = .mdIo1W 0 0x41 := by decide

/-- R174 to R176. -/
theorem test_decode_c64gs :
    decode 0x200C2000 = .gsRomlR 0 ∧ decode 0x2FF48005 = .gsIo1W 5 0xFF ∧ decode 0x200C8000 = .gsIo1R 0 := by decide

/-- R177 to R179. -/
theorem test_decode_ocean :
    decode 0x300C2100 = .ocRomlR 0x100 ∧ decode 0x300C4100 = .ocRomhR 0x100 ∧
      decode 0x38548000 = .ocIo1W 0 0x85 := by decide

/-- R180 to R182. -/
theorem test_decode_comal80 :
    decode 0x400C2000 = .coRomlR 0 ∧ decode 0x400C4000 = .coRomhR 0 ∧ decode 0x48248000 = .coIo1W 0 0x82 := by decide

/-- R183, R184. -/
theorem test_decode_hucky : decode 0x500C2000 = .huRomlR 0 ∧ decode 0x50348000 = .huIo1W 0 0x03 := by decide

/-- R185, R186. -/
theorem test_decode_prophet : decode 0x600C2000 = .prRomlR 0 ∧ decode 0x60750000 = .prIo2W 0 0x07 := by decide

/-- R187 to R190. -/
theorem test_decode_simons :
    decode 0x700C2000 = .sbRomlR 0 ∧ decode 0x700C4000 = .sbRomhR 0 ∧ decode 0x70048000 = .sbIo1W 0 0 ∧
    decode 0x700C8000 = .sbIo1R 0 := by decide

/-- R191, R192. -/
theorem test_decode_dinamic : decode 0x800C2000 = .diRomlR 0 ∧ decode 0x800C800A = .diIo1R 0x0A := by decide

/-- R193 to R195. -/
theorem test_decode_epyx :
    decode 0x900C2020 = .epRomlR 0x20 ∧ decode 0x900C8000 = .epIo1R 0 ∧ decode 0x900D0034 = .epIo2R 0x34 := by decide

/-- R196, R197. -/
theorem test_decode_zaxxon : decode 0xC00C3234 = .zxRomlR 0x1234 ∧ decode 0xC00C4010 = .zxRomhR 0x10 := by decide

/-- R220 to R227. -/
theorem test_decode_easyflash :
    decode 0xA00C2000 = .efRomlR 0 ∧ decode 0xA00C5FFF = .efRomhR 0x1FFF ∧
      decode 0xA0148000 = .efIo1WBank 0 1 ∧
    decode 0xA0748002 = .efIo1WCtrl 2 7 ∧ decode 0xA00D0010 = .efIo2R 0x10 ∧
    decode 0xA5A50010 = .efIo2W 0x10 0x5A ∧ decode 0xAAA42555 = .efRomlW 0x555 0xAA ∧
    decode 0xAAA44555 = .efRomhW 0x555 0xAA := by decide

/-- R250 to R252. -/
theorem test_decode_gmod2 :
    decode 0xB00C2000 = .gmRomlR 0 ∧ decode 0xB0548000 = .gmIo1W 0 5 ∧ decode 0xB00C8000 = .gmIo1R 0 := by decide

/-- R286 to R289. -/
theorem test_decode_freezeframe :
    decode 0xD00C2000 = .ffRomlR 0 ∧ decode 0xD00C4000 = .ffRomhR 0 ∧ decode 0xD00C8000 = .ffIo1R 0 ∧
    decode 0xD00D0000 = .ffIo2R 0 := by decide

/-- R290 to R296. -/
theorem test_decode_actionreplay :
    decode 0xE00C2100 = .arRomlR 0x100 ∧ decode 0xE7742100 = .arRomlW 0x100 0x77 ∧
    decode 0xE00C4100 = .arRomhR 0x100 ∧ decode 0xE7744100 = .arRomhW 0x100 0x77 ∧
    decode 0xE0848000 = .arIo1W 0 8 ∧ decode 0xE00D0010 = .arIo2R 0x10 ∧
      decode 0xE9950010 = .arIo2W 0x10 0x99 := by decide

/-- R297 to R301. -/
theorem test_decode_supersnapshot5 :
    decode 0xF00C2100 = .ssRomlR 0x100 ∧ decode 0xF7742100 = .ssRomlW 0x100 0x77 ∧
    decode 0xF00C4100 = .ssRomhR 0x100 ∧ decode 0xF0048000 = .ssIo1W 0 0 ∧
      decode 0xF00C8020 = .ssIo1R 0x20 := by decide

/-- R360 to R362. -/
theorem test_decode_video :
    decode 0x000E4123 = .vidRomhR 0x123 ∧ decode 0x51264000 = .vidIgnW ∧ decode 0x300E2123 = .vidIgnNr := by decide

/-- R147: `R - $0123`; 30_encoding R108: a direction and a window the variant does not serve. -/
theorem test_decode_ign : decode 0x000C0123 = .ign ∧ decode 0x00042000 = .ign ∧ decode 0x300D0000 = .ign := by decide

/-- 30_encoding R105: several flags set, ROM-high is served first. -/
theorem test_decode_romh_first : decode 0x000C6000 = .fxRomhR 0 ∧ decode 0x700CE000 = .sbRomhR 0 := by decide

/-- The encoder writes the words of the examples. -/
theorem test_encode :
    encode (.fxRomhR 0x1FFF) = 0x000C5FFF ∧ encode (.mdIo1W 0 0x41) = 0x14148000 ∧
    encode (.prIo2W 0 7) = 0x60750000 ∧ encode (.efIo1WCtrl 2 7) = 0xA0748002 ∧
    encode (.efRomhW 0x555 0xAA) = 0xAAA44555 ∧ encode (.arIo2W 0x10 0x99) = 0xE9950010 ∧
    encode (.vidRomhR 0x123) = 0x000E4123 := by decide

theorem test_decodeTableWord : decodeTableWord 32 0xA0748002 = some (.efIo1WCtrl 2 7) := by decide

/-- 30_encoding R115. -/
theorem test_stimulus_word :
    stimulusWord .magicdesk { dir := .w 0x41, window := .io1, addr := 0 } = 0x14148000 := by decide

/-- 30_encoding R105. -/
theorem test_win_order :
    (wordSample 0x000CE000).win = .romh ∧ (wordSample 0x000DA000).win = .roml ∧
    (wordSample 0x000D8000).win = .io1 ∧ (wordSample 0x000D0000).win = .io2 := by decide

/-- The one check of WellFormed.lean refuses each of its two ill-formed terms. -/
theorem test_wellFormed_refuses :
    (Instr.efIo1WBank 0x02 7).wellFormed = false ∧ (Instr.efIo1WCtrl 0xFD 7).wellFormed = false := by decide

theorem test_wellFormed_admits :
    (Instr.efIo1WBank 0xFD 7).wellFormed = true ∧ (Instr.efIo1WCtrl 0x02 7).wellFormed = true := by decide

/-! ### Flags and operands -/

/-- 30_encoding R112, the 16 entries. -/
theorem test_efMode :
    (List.range 16).map (fun i => efMode (BitVec.ofNat 4 i)) =
      [modeOff, modeOff, modeM8k, modeM8k, modeOff, modeUltimax, modeM8k, modeM16k, modeUltimax, modeUltimax, modeM16k,
        modeM16k, modeOff, modeUltimax, modeM8k, modeM16k] := by decide

/-- 30_encoding R110: the pair (MAP_G, MAP_X). -/
theorem test_modeBits : [modeOff, modeM8k, modeUltimax, modeM16k].map modeBits = [0, 1, 2, 3] := by decide

/-- 10_state R21. -/
theorem test_polarityFixup :
    polarityFixup .ocean 64 modeM16k = modeM8k ∧ polarityFixup .ocean 63 modeM16k = modeM16k := by decide

/-- 10_state R12: x[0] is BANK, x[3] is CARTEN, zero-extended. -/
theorem test_readX : readX 0 (inBank 5 (session .ocean 16)) = 5 ∧ readX 3 State.reset = 1 := by decide

/-- 20_memory R72: the low byte moves up by five, the high bits down. -/
theorem test_linearToCacheOrder : linearToCacheOrder 0x0001 = 0x0020 ∧ linearToCacheOrder 0x1F00 = 0x001F := by decide

/-- 60_exceptions R371. -/
theorem test_loadErrorCode : loadErrorCode .badSignature = 1 ∧ loadErrorCode .tooManyBanks = 6 := by decide

/-! ### One invocation of each operation: the examples of 41_simple_bank to 46_video_window -/

/-- A session without ROM-high data. -/
def lowOnly (s : State) : State := { s with cfg := { s.cfg with hasH := false } }

/-- EPYX, with its default countdown of 512. -/
def epyx : State := session .epyx 1

/-- ZAXXON, handed over with a full ROM-low mask, which it does not use (R196). -/
def zaxxon : State := { session .zaxxon 2 with cfg := { (session .zaxxon 2).cfg with offMaskL := 0x1FFF } }

/-- An AtomicPower that shows its RAM in ROM-high. -/
def atomic : State :=
  { session .actionreplay 4 with
    cfg := { (session .actionreplay 4).cfg with arAtomic := true }
    reg := ⟨0, 0x22, true, true⟩ }

/-- A session whose image does not fit in cache. -/
def uncached : State :=
  { session .magicdesk 16 with cfg := { (session .magicdesk 16).cfg with fitsInCache := false } }

/-- The same during a stall. -/
def stalled : State := { uncached with stallOut := true, dma := ⟨none, some 1, 0⟩ }

/-- The EEPROM with the write-enable latch set. -/
def writable (s : State) : State := { s with eepi := { s.eepi with wen := true } }

/-- A GMOD2 session one clock before the sixteenth data bit of a WRITE to word 0. -/
def lastBit : State :=
  { session .gmod2 64 with
    eepi := { EepromIface.initial with cs := true, wen := true, phase := .dataIn, n := 15 } }

/-- An armed ACTIONREPLAY after `n` writes. -/
def armed (n : Nat) : State := { session .actionreplay 4 with frz := ⟨.armed, 3, 5, n⟩, nmiOut := true }

/-- The environment of an idle invocation with RESET_IN asserted. -/
def resetEnv : Env := lineEnv { idleLine with rst := true }

/-- The reset state with the reset counter at `n`. -/
def counted (n : Nat) : State := { State.reset with rst := ⟨n, false, false⟩ }

/-- The reset state before a reset pulse of three invocations. -/
def pulsed : State := { State.reset with inputs := (List.replicate 3 resetEnv).map .clkIrq }

/-- The reset state with an activation as its next input. -/
def loaded (r : LoadResult) : State := { State.reset with inputs := [.activate r] }

/-- R170. -/
theorem test_fxRomlR : (afterWord (session .fixed 1) 0x000C2010).drive = some 0x3C := by decide

/-- R171. -/
theorem test_fxRomhR : (afterWord (session .fixed 1) 0x000C4123).drive = some 0x14 := by decide

/-- R172: in bank 1. -/
theorem test_mdRomlR : (afterWord (inBank 1 (session .magicdesk 130)) 0x100C2100).drive = some 0x16 := by decide

/-- R173: 130 banks, BANK = 65. -/
theorem test_mdIo1W : (afterWord (session .magicdesk 130) 0x14148000).reg = ⟨65, 0x41, false, true⟩ := by decide

/-- R173: bit 7 disables and keeps BANK. -/
theorem test_mdIo1W_disable :
    (afterWord (inBank 3 (session .magicdesk 130)) 0x18048000).reg = ⟨3, 0x80, false, false⟩ := by decide

/-- R174. -/
theorem test_gsRomlR : (afterWord (inBank 1 (session .c64gs 64)) 0x200C2000).drive = some 0x15 := by decide

/-- R175: BANK = 5 from the address. -/
theorem test_gsIo1W : (afterWord (session .c64gs 64) 0x2FF48005).reg.bank = 5 := by decide

/-- R176: BANK = 0, nothing driven. -/
theorem test_gsIo1R :
    (afterWord (inBank 7 (session .c64gs 64)) 0x200C8000).reg.bank = 0 ∧
      (afterWord (inBank 7 (session .c64gs 64)) 0x200C8000).drive = none := by decide

/-- R177. -/
theorem test_ocRomlR : (afterWord (inBank 1 (session .ocean 16)) 0x300C2100).drive = some 0x16 := by decide

/-- R178: the ROM-low byte. -/
theorem test_ocRomhR : (afterWord (inBank 1 (session .ocean 16)) 0x300C4100).drive = some 0x16 := by decide

/-- R179: 16 banks, BANK = 5. -/
theorem test_ocIo1W : (afterWord (session .ocean 16) 0x38548000).reg = ⟨5, 0x85, false, true⟩ := by decide

/-- R180. -/
theorem test_coRomlR : (afterWord (inBank 1 (session .comal80 4)) 0x400C2000).drive = some 0x15 := by decide

/-- R181. -/
theorem test_coRomhR : (afterWord (inBank 1 (session .comal80 4)) 0x400C4010).drive = some 0x17 := by decide

/-- R182: M16K, M8K, disabled. -/
theorem test_coIo1W :
    (afterWord (session .comal80 4) 0x48248000).map = modeM16k ∧
      (afterWord (session .comal80 4) 0x44048000).map = modeM8k ∧
      (afterWord (session .comal80 4) 0x4E048000).reg.carten = false := by decide

/-- R182: BANK = 2. -/
theorem test_coIo1W_bank : (afterWord (session .comal80 4) 0x48248000).reg.bank = 2 := by decide

/-- R183. -/
theorem test_huRomlR : (afterWord (inBank 1 (session .hucky 8)) 0x500C2000).drive = some 0x15 := by decide

/-- R184: BANK = 3; then bit 3 disables with BANK = 0. -/
theorem test_huIo1W :
    (afterWord (session .hucky 8) 0x50348000).reg = ⟨3, 3, false, true⟩ ∧
      (afterWord (inBank 3 (session .hucky 8)) 0x50848000).reg = ⟨0, 8, false, false⟩ := by decide

/-- R185. -/
theorem test_prRomlR : (afterWord (inBank 1 (session .prophet 32)) 0x600C2000).drive = some 0x15 := by decide

/-- R186: BANK = 7; disabled. -/
theorem test_prIo2W :
    (afterWord (session .prophet 32) 0x60750000).reg = ⟨7, 7, false, true⟩ ∧
      (afterWord (session .prophet 32) 0x62050000).reg = ⟨0, 0x20, false, false⟩ := by decide

/-- R187. -/
theorem test_sbRomlR : (afterWord (session .simons 1) 0x700C2010).drive = some 0x3C := by decide

/-- R188. -/
theorem test_sbRomhR : (afterWord (session .simons 1) 0x700C4123).drive = some 0x14 := by decide

/-- R189. -/
theorem test_sbIo1W : (afterWord (session .simons 1) 0x70048000).map = modeM16k := by decide

/-- R190. -/
theorem test_sbIo1R :
    (afterWord (session .simons 1) 0x700C8000).map = modeM8k ∧
      (afterWord (session .simons 1) 0x700C8000).drive = none := by decide

/-- R191. -/
theorem test_diRomlR : (afterWord (inBank 1 (session .dinamic 16)) 0x800C2000).drive = some 0x15 := by decide

/-- R192: BANK = 10, nothing driven. -/
theorem test_diIo1R :
    (afterWord (session .dinamic 16) 0x800C800A).reg.bank = 10 ∧
      (afterWord (session .dinamic 16) 0x800C800A).drive = none := by decide

/-- R193: re-armed with 512, the tick leaves 511. -/
theorem test_epRomlR :
    (afterWord epyx 0x900C2020).capCnt = 511 ∧ (afterWord epyx 0x900C2020).drive = some 0x11 := by decide

/-- R194: enabled again and re-armed. -/
theorem test_epIo1R :
    (afterWord (disable epyx) 0x900C8000).reg.carten = true ∧
      (afterWord (disable epyx) 0x900C8000).capCnt = 511 := by decide

/-- R195: driven even while disabled. -/
theorem test_epIo2R : (afterWord (disable epyx) 0x900D0034).drive = some 0x13 := by decide

/-- R196: bank 0 answers, BANK = 1; with bit 12 clear BANK = 0. -/
theorem test_zxRomlR :
    (afterWord zaxxon 0xC00C3234).drive = some 0x12 ∧ (afterWord zaxxon 0xC00C3234).reg.bank = 1 ∧
      (afterWord (inBank 1 zaxxon) 0xC00C2234).reg.bank = 0 := by decide

/-- R197. -/
theorem test_zxRomhR : (afterWord (inBank 1 zaxxon) 0xC00C4010).drive = some 0x17 := by decide

/-- R220. -/
theorem test_efRomlR : (afterWord (inBank 1 (session .easyflash 2)) 0xA00C2000).drive = some 0x15 := by decide

/-- R221. -/
theorem test_efRomhR : (afterWord (inBank 1 (session .easyflash 2)) 0xA00C4010).drive = some 0x17 := by decide

/-- R222: BANK = 1, CTRL not written. -/
theorem test_efIo1WBank : (afterWord (session .easyflash 2) 0xA0148000).reg = ⟨1, 0, false, true⟩ := by decide

/-- R223: M16K; OFF. -/
theorem test_efIo1WCtrl :
    (afterWord (session .easyflash 2) 0xA0748002).map = modeM16k ∧
      (afterWord (session .easyflash 2) 0xA0448002).map = modeOff := by decide

/-- R225, R224: the byte written is the byte read. -/
theorem test_efIo2W :
    (afterWord (afterWord (session .easyflash 2) 0xA5A50010) 0xA00D0010).drive = some 0x5A := by decide

/-- R224: not gated by CARTEN. -/
theorem test_efIo2R :
    (afterWord (disable (afterWord (session .easyflash 2) 0xA5A50010)) 0xA00D0010).drive = some 0x5A := by decide

/-- R226: FL_READ to FL_U1 in the low window only. -/
theorem test_efRomlW : (afterWord (session .easyflash 2) 0xAAA42555).flash = ⟨.u1, .read⟩ := by decide

/-- R229: 0x3C programmed with 0x0F reads 0x0C. -/
theorem test_efRomlW_program :
    (afterWord (afterWord (setFlash .l .program (session .easyflash 2)) 0xA0F42010) 0xA00C2010).drive =
      some 0x0C := by decide

/-- R227: FL_READ to FL_U1 in the high window only. -/
theorem test_efRomhW : (afterWord (session .easyflash 2) 0xAAA44555).flash = ⟨.read, .u1⟩ := by decide

/-- 10_state R16, 20_memory R73: no ROM-window write is accepted while CARTEN = 0. -/
theorem test_efRomhW_disabled :
    (afterWord (disable (session .easyflash 2)) 0xAAA44555).flash = ⟨.read, .read⟩ := by decide

/-- R230: 16 banks, BANK = 9, the sector that starts at bank 8. -/
theorem test_efRomlW_erase :
    (afterWord (setFlash .l .e2 (inBank 9 (session .easyflash 16))) 0xA3042000).events =
      [.persistFlashSector .l 8] := by decide

/-- R250. -/
theorem test_gmRomlR : (afterWord (inBank 1 (session .gmod2 64)) 0xB00C2000).drive = some 0x15 := by decide

/-- R251: BANK = 5, enabled. -/
theorem test_gmIo1W : (afterWord (session .gmod2 64) 0xB0548000).reg = ⟨5, 5, false, true⟩ := by decide

/-- R251: ROM off, EEPROM selected. -/
theorem test_gmIo1W_select :
    (afterWord (session .gmod2 64) 0xB4048000).reg = ⟨0, 0x40, false, false⟩ ∧
      (afterWord (session .gmod2 64) 0xB4048000).eepi.cs = true := by decide

/-- R252: ready while selected, else 0. -/
theorem test_gmIo1R :
    (afterWord (afterWord (session .gmod2 64) 0xB4048000) 0xB00C8000).drive = some 0x80 ∧
      (afterWord (session .gmod2 64) 0xB00C8000).drive = some 0x00 := by decide

/-- R286. -/
theorem test_ffRomlR : (afterWord (session .freezeframe 1) 0xD00C2010).drive = some 0x3C := by decide

/-- R287: the low byte for an image without ROM-high data. -/
theorem test_ffRomhR : (afterWord (lowOnly (session .freezeframe 1)) 0xD00C4010).drive = some 0x3C := by decide

/-- R288. -/
theorem test_ffIo1R :
    (afterWord (disable (session .freezeframe 1)) 0xD00C8000).map = modeM8k ∧
      (afterWord (disable (session .freezeframe 1)) 0xD00C8000).reg.carten = true := by decide

/-- R289. -/
theorem test_ffIo2R :
    (afterWord (session .freezeframe 1) 0xD00D0000).map = modeOff ∧
      (afterWord (session .freezeframe 1) 0xD00D0000).reg.carten = false := by decide

/-- R290: ROM while RAMEXP = 0. -/
theorem test_arRomlR : (afterWord (inBank 1 (session .actionreplay 4)) 0xE00C2100).drive = some 0x16 := by decide

/-- R291, R290: the RAM byte. -/
theorem test_arRomlW :
    (afterWord (afterWord (exported (session .actionreplay 4)) 0xE7742100) 0xE00C2100).drive = some 0x77 := by decide

/-- R292: the low byte for the usual image. -/
theorem test_arRomhR :
    (afterWord (inBank 1 (lowOnly (session .actionreplay 4))) 0xE00C4100).drive = some 0x16 := by decide

/-- R293: no effect but with the AtomicPower RAM shown. -/
theorem test_arRomhW :
    (afterWord (exported (session .actionreplay 4)) 0xE7744100).ram = [] ∧
      (afterWord atomic 0xE7744100).ram = [(0x100, 0x77)] := by decide

/-- R294: bank 1, M8K; RAM with ULTIMAX. -/
theorem test_arIo1W :
    (afterWord (session .actionreplay 4) 0xE0848000).reg = ⟨1, 8, false, true⟩ ∧
      (afterWord (session .actionreplay 4) 0xE0848000).map = modeM8k ∧
      (afterWord (session .actionreplay 4) 0xE2348000).reg.ramexp = true ∧
      (afterWord (session .actionreplay 4) 0xE2348000).map = modeUltimax := by decide

/-- R294: OFF, or M16K with `AR_ATOMIC`; disabled. -/
theorem test_arIo1W_modes :
    (afterWord (session .actionreplay 4) 0xE2248000).map = modeOff ∧
      (afterWord atomic 0xE2248000).map = modeM16k ∧
      (afterWord (session .actionreplay 4) 0xE0448000).reg.carten = false := by decide

/-- R296: `ram[0x1F10] = 0x99`. -/
theorem test_arIo2W : (afterWord (exported (session .actionreplay 4)) 0xE9950010).ram = [(0x1F10, 0x99)] := by decide

/-- R295: the RAM byte. -/
theorem test_arIo2R :
    (afterWord (afterWord (exported (session .actionreplay 4)) 0xE9950010) 0xE00D0010).drive = some 0x99 := by decide

/-- R297: BANK = 3, `ram[0x6100]`. -/
theorem test_ssRomlR :
    (afterWord (inBank 3 { exported (session .supersnapshot5 4) with
      ram := [(0x6100, 0x44)] }) 0xF00C2100).drive = some 0x44 := by decide

/-- R298: BANK = 0, `ram[0x100] = 0x77`. -/
theorem test_ssRomlW :
    (afterWord (exported (session .supersnapshot5 4)) 0xF7742100).ram = [(0x100, 0x77)] := by decide

/-- R299: ROM-high data of BANK. -/
theorem test_ssRomhR :
    (afterWord (inBank 1 (exported (session .supersnapshot5 4))) 0xF00C4010).drive = some 0x17 := by decide

/-- R300: ROM, bank 3, M16K; RAM, bank 3, ULTIMAX. -/
theorem test_ssIo1W :
    (afterWord (session .supersnapshot5 4) 0xF1648000).reg = ⟨3, 0x16, false, true⟩ ∧
      (afterWord (session .supersnapshot5 4) 0xF1648000).map = modeM16k ∧
      (afterWord (session .supersnapshot5 4) 0xF1448000).reg = ⟨3, 0x14, true, true⟩ ∧
      (afterWord (session .supersnapshot5 4) 0xF1448000).map = modeUltimax := by decide

/-- R301: the ROM page at 0x1E00. -/
theorem test_ssIo1R : (afterWord (inBank 1 (session .supersnapshot5 4)) 0xF00C8020).drive = some 0x18 := by decide

/-- R360. -/
theorem test_vidRomhR : (afterWord (session .fixed 1) 0x000E4123).drive = some 0x14 := by decide

/-- R361: nothing happens, the shadow byte included. -/
theorem test_vidIgnW :
    (afterWord (session .hucky 8) 0x51264000).drive = none ∧
      (afterWord (session .hucky 8) 0x51264000).shadow = [] := by decide

/-- R362. -/
theorem test_vidIgnNr : (afterWord (session .ocean 16) 0x300E2123).drive = none := by decide

/-- R147. -/
theorem test_ign : (afterWord (session .fixed 1) 0x000C0123).drive = none := by decide

/-! ### Sampling, and the session a word is presented in -/

/-- 40_cycle R144: address low byte, direction and flags from phase 1, the rest from phase 2. -/
theorem test_assemble :
    assemble Cfg.default
      { p1 := ⟨0x1E34, true, false, false, true, true, true, true⟩, p2 := ⟨0x01FF, false, true, true, false, true, false, false⟩
        pw := 0x5A, resetIn := false, buttonIn := false } =
      { addrLo := 0x34, addrHi := 0x01, roml := false, romh := true, io1 := false, io2 := false, vid := false, ba := false,
        rw := true, data := 0x5A } := by decide

/-- 46_video_window R363: on a board that skips phase 2, a video-half sample is the phase-1 capture. -/
theorem test_assemble_skip :
    assemble { Cfg.default with videoSkipPhase2 := true }
      { p1 := ⟨0x1E34, true, true, true, false, true, false, false⟩, p2 := ⟨0x01FF, false, false, true, true, false, true, true⟩
        pw := 0x5A, resetIn := false, buttonIn := false } =
      { addrLo := 0x34, addrHi := 0x1E, roml := false, romh := true, io1 := false, io2 := false, vid := true, ba := true,
        rw := true, data := 0x5A } := by decide

/-- 41_simple_bank R196: a ZAXXON word presented in a session of another variant drives `rom(0, L, 0x234)`. -/
theorem test_presented_zaxxon : (afterWord (session .fixed 2) 0xC00C3234).drive = some 0x12 := by decide

/-- 95_test_vectors S-45: the first word after reset in an EPYX session. -/
theorem test_presented_epyx :
    (afterWord State.reset 0x900C8000).reg.carten = true ∧ (afterWord State.reset 0x900C8000).map = modeM8k ∧
      (afterWord State.reset 0x900C8000).capCnt = 511 := by decide

/-! ### The controllers -/

/-- A selected GMOD2 chip one clock before the twelfth command bit, the bits so far being `sr`. -/
def lastCommandBit (sr : BitVec 16) (wen : Bool) : State :=
  { session .gmod2 64 with eepi := { EepromIface.initial with cs := true, wen := wen, phase := .cmd, n := 11, sr := sr } }

/-- 43_gmod2 section 3, frame 1: the last bit of EWEN, and of EWDS. -/
theorem test_ewen_ewds :
    (after State.reset (exec (.gmIo1W 0 0x60) (lastCommandBit 0b00110000000 false))).eepi.wen = true ∧
      (after State.reset (exec (.gmIo1W 0 0x60) (lastCommandBit 0 true))).eepi.wen = false := by decide

/-- 42_easyflash R230: every byte of the range, no other. -/
theorem test_fillRange :
    Memory.fillRange none 2 3 0xFF [(1, 1), (3, 3), (9, 9)] =
      [(1, 1), (2, 0xFF), (3, 0xFF), (4, 0xFF), (9, 9)] := by decide

/-- 40_cycle R146: recorded though FIXED serves no I/O window. -/
theorem test_shadow_write : (afterWord (session .fixed 1) 0x01248034).shadow = [(0x34, 0x12)] := by decide

/-- 60_exceptions R375, with the threshold 3. -/
theorem test_reset_fires :
    (after State.reset (core.run 3 { State.reset with
      inputs := (stimulusReset 3).map stimulusInput })).rst =
      ⟨3, true, false⟩ := by decide

/-- 45_memory_mux_dma R336: with a trigger delay of 0 the tick of the switch asserts the stall. -/
theorem test_stall_asserted :
    (afterWord { session .magicdesk 16 with cfg := { (session .magicdesk 16).cfg with
      fitsInCache := false } } 0x10148000).stallOut = true := by decide

/-- 10_state R45. -/
theorem test_reset_state :
    State.reset.reg = ⟨0, 0, false, true⟩ ∧ State.reset.map = mapDefault State.reset.cfg ∧
      State.reset.drive = none := by decide

/-! ### Witnesses: the hypotheses of each statement hold together -/

/-- The next state of a presented line. -/
def done (s : State) (x : StimulusLine) : State := after s (step (presented s x))

theorem witness_DecodeEncodeAgree :
    (Instr.efIo1WCtrl 0xFF 0xFF).wellFormed = true ∧ (Instr.efIo1WBank 0x00 0x3F).wellFormed = true ∧
      (Instr.fxRomhR 0x1FFF).wellFormed = true := by decide

theorem witness_DecodeFollowsTheOpcodeTable :
    (∃ row ∈ opcodeTable, (0xA0748002 : DispatchWord) &&& row.mask = row.pattern) ∧
      ∀ row ∈ opcodeTable, (0x000C0123 : DispatchWord) &&& row.mask ≠ row.pattern :=
  ⟨⟨⟨"EF.IO1.W.CTRL", 0xF00AE002, 0xA0008002⟩, by decide, by decide⟩, by decide⟩

theorem witness_DecodeIgnoresDataAndBusAvailable : (wordSample 0x000C2000).rw = true := by decide

theorem witness_StepRunsTheDecodedOperation :
    (presented (session .magicdesk 16) writeLine).active = true ∧
      (presented (session .magicdesk 16) writeLine).inputs = .clkIrq (lineEnv writeLine) :: [] ∧
      decode (dispatchWord .magicdesk (sampleTaken (session .magicdesk 16).cfg (lineEnv writeLine))) = .mdIo1W 0x02 0x07 := by
  decide

theorem witness_IdleWithoutInputOrSession :
    State.reset.inputs = [] ∧ (presented (deactivate State.reset) readLine).active = false ∧
      (presented (deactivate State.reset) readLine).inputs = .clkIrq (lineEnv readLine) :: [] := by decide

/-- An invocation, for every statement about one (`Cycle`): a read. -/
theorem witness_Cycle_read :
    Cycle (presented (session .fixed 1) readLine) (lineEnv readLine) (done (session .fixed 1) readLine) :=
  ⟨rfl, rfl, rfl⟩

theorem witness_ConfigurationIsFixedInASession :
    Cycle (presented (session .ocean 16) writeLine) (lineEnv writeLine) (done (session .ocean 16) writeLine) :=
  ⟨rfl, rfl, rfl⟩

theorem witness_OutputsAreFreshEachInvocation :
    (presented State.reset readLine).active = true ∧
      (presented State.reset readLine).inputs = .clkIrq (lineEnv readLine) :: [] := by decide

theorem witness_WritesDriveNothing :
    Cycle (presented (session .easyflash 2) writeLine) (lineEnv writeLine) (done (session .easyflash 2) writeLine) ∧
      (lineEnv writeLine).p1.rw = false :=
  ⟨⟨rfl, rfl, rfl⟩, rfl⟩

/-- Both branches: the write is recorded, and another address is not. -/
theorem witness_ShadowRecordsEveryIoWrite :
    Cycle (presented (session .fixed 1) writeLine) (lineEnv writeLine) (done (session .fixed 1) writeLine) ∧
      (sampleTaken (session .fixed 1).cfg (lineEnv writeLine)).win = .io1 ∧ (lineEnv writeLine).p1.addr.toNat % 256 = 2 :=
  ⟨⟨rfl, rfl, rfl⟩, by decide, by decide⟩

theorem witness_StageFiveChoosesByTheVideoHalf :
    Cycle (presented (session .fixed 1) videoLine) (lineEnv videoLine) (done (session .fixed 1) videoLine) ∧
      (lineEnv videoLine).p1.vid = true ∧
      Cycle (presented (session .fixed 1) readLine) (lineEnv readLine) (done (session .fixed 1) readLine) ∧
      (lineEnv readLine).p1.vid = false :=
  ⟨⟨rfl, rfl, rfl⟩, rfl, ⟨rfl, rfl, rfl⟩, rfl⟩

theorem witness_VideoByteIsTheCpuRomHighByte :
    (wordSample 0x000C4123).vid = false ∧ (wordSample 0x000C4123).rw = true ∧ (wordSample 0x000C4123).romh = true := by
  decide

theorem witness_RamOrRomReads : (session .supersnapshot5 4).cfg.variant = .supersnapshot5 := by decide

theorem witness_RomReadsAreIdempotent :
    ∃ t u, isRomRead (.zxRomlR 0x1234) = true ∧ zaxxon.drive = none ∧ exec (.zxRomlR 0x1234) zaxxon = .next t ∧
      exec (.zxRomlR 0x1234) (beginInvocation t) = .next u :=
  ⟨_, _, rfl, rfl, rfl, rfl⟩

theorem witness_RamWrites :
    ((exported (session .supersnapshot5 4)).reg.carten = true ∧ (exported (session .supersnapshot5 4)).reg.ramexp = true ∧
      (exported (session .supersnapshot5 4)).cfg.variant = .supersnapshot5) ∧
      ¬((session .actionreplay 4).reg.carten = true ∧ (session .actionreplay 4).reg.ramexp = true) ∧
      (atomic.reg.carten = true ∧ AtomicRam atomic) ∧
      ¬((session .actionreplay 4).reg.carten = true ∧ AtomicRam (session .actionreplay 4)) := by decide

/-- Each clause on indices. -/
theorem witness_StoreReadAfterWrite :
    (session .easyflash 2).cfg.accepted ∧ (1 : Byte).toNat < (session .easyflash 2).cfg.bankCount ∧
      (session .easyflash 2).cfg.variant = .easyflash ∧ (session .actionreplay 4).cfg.accepted ∧
      (session .actionreplay 4).cfg.variant = .actionreplay ∧ (session .supersnapshot5 4).cfg.accepted ∧
      (session .supersnapshot5 4).cfg.variant = .supersnapshot5 ∧ (session .gmod2 64).cfg.accepted ∧
      (session .gmod2 64).cfg.variant = .gmod2 := by
  unfold Cfg.accepted; decide

/-- A program, a RAM write and an EEPROM erase each change a byte. -/
theorem witness_StoresChangeOnlyThroughTheirProtocols :
    (∃ t, exec (.efRomlW 0x10 0x0F) (setFlash .l .program (session .easyflash 2)) = .next t ∧
      memRead .rom 0x10 t ≠ memRead .rom 0x10 (setFlash .l .program (session .easyflash 2))) ∧
      (∃ t, exec (.efIo2W 0x10 0x5A) { session .easyflash 2 with ram := [(0x10, 0)] } = .next t ∧
        memRead .ram 0x10 t ≠ memRead .ram 0x10 { session .easyflash 2 with ram := [(0x10, 0)] }) ∧
      ∃ t, exec (.gmIo1W 0 0x70) lastBit = .next t ∧ memRead .eep 0 t ≠ memRead .eep 0 lastBit :=
  ⟨⟨_, rfl, by decide⟩, ⟨_, rfl, by decide⟩, ⟨_, rfl, by decide⟩⟩

theorem witness_EveryStepKeepsStoresCanonical :
    StoresCanonical (presented State.reset readLine) ∧ ∃ t, step (presented State.reset readLine) = .next t :=
  ⟨⟨Memory.wf_nil _, Memory.wf_nil _, Memory.wf_nil _, Memory.wf_nil _⟩, _, rfl⟩

theorem witness_PhysicalStoreReturnsTheLogicalByte : Function.Injective (fun o : Offset => o) := fun _ _ h => h

/-- Each clause: the bank already active; another, with the image in cache, during a stall, and otherwise. -/
theorem witness_BankSwitchRequestsTheStall :
    (0 : Byte) = State.reset.reg.bank ∧ (1 : Byte) ≠ State.reset.reg.bank ∧ State.reset.cfg.fitsInCache = true ∧
      uncached.cfg.fitsInCache = false ∧ uncached.dma.release = none ∧
      stalled.cfg.fitsInCache = false ∧ stalled.dma.release ≠ none ∧ (1 : Byte) ≠ stalled.reg.bank := by decide

/-- A trigger delay at its end. -/
def triggering : State := { uncached with dma := ⟨some 0, none, 1⟩ }

/-- Each state of the controller for one tick; a switch with nothing running and one during a stall. -/
theorem witness_StallTimeline :
    ({ stalled with dma := ⟨none, some 0, 0⟩ }.dma.release = some 0 ∧ stalled.dma.release = some (0 + 1) ∧
        triggering.dma.release = none ∧ triggering.dma.pending = some 0 ∧
        { triggering with dma := ⟨some 1, none, 1⟩ }.dma.pending = some (0 + 1) ∧ uncached.dma.pending = none) ∧
      (uncached.cfg.fitsInCache = false ∧ (1 : Byte) ≠ uncached.reg.bank ∧ uncached.dma.release = none ∧
        uncached.stallOut = false) ∧
      stalled.cfg.fitsInCache = false ∧ (1 : Byte) ≠ stalled.reg.bank ∧ stalled.dma.release ≠ none ∧
        stalled.dma.pending = none ∧ stalled.stallOut = true := by decide

/-- A sound state, a step that starts the release countdown, an operation and a tick before it is started. -/
theorem witness_EveryStepKeepsTheStallControllerSound :
    (DmaSound (presented State.reset readLine) ∧ ∃ t, step (presented State.reset readLine) = .next t) ∧
      (∃ t, step (presented triggering readLine) = .next t ∧ (presented triggering readLine).dma.release = none ∧
        t.dma.release ≠ none) ∧
      (∃ t, exec (.mdIo1W 0 1) uncached = .next t ∧ uncached.dma.release = none) ∧
      triggering.dma.release = none ∧ (dmaTick triggering).dma.release ≠ none :=
  ⟨⟨⟨.inl rfl, rfl, fun _ => ⟨rfl, rfl⟩, fun _ h => (by cases h), fun _ h => (by cases h)⟩, _, rfl⟩,
    ⟨_, rfl, rfl, by decide⟩, ⟨_, rfl, rfl⟩, rfl, by decide⟩

theorem witness_AddressBankRegisters :
    zaxxon.cfg.variant = .zaxxon ∧ zaxxon.reg.carten = true ∧ zaxxon.cfg.hasL = true := by decide

/-- The selected chip in phase `p` after `n` bits, its clock low. -/
def inPhase (p : EepPhase) (n : Nat) : State :=
  { session .gmod2 64 with eepi := { EepromIface.initial with cs := true, phase := p, n := n } }

/-- Each clause on lines: no clock edge, deselect, select without an edge and with one, an edge in each phase. (The frame
of every line change has no hypothesis beyond its index, `2048` at least.) -/
theorem witness_Gmod2RegisterAndLines :
    ((session .gmod2 64).eepi.cs = false ∧ ¬(false = true ∧ (session .gmod2 64).eepi.clk = false ∧ true = true)) ∧
      (lastBit.eepi.cs = true ∧ (false : Bool) = false) ∧
      ((session .gmod2 64).eepi.cs = false ∧ (true : Bool) = true ∧
        ¬((session .gmod2 64).eepi.clk = false ∧ false = true)) ∧
      (session .gmod2 64).eepi.clk = false ∧
      (∀ p, (inPhase p 10).eepi.cs = true ∧ (inPhase p 10).eepi.clk = false ∧ (inPhase p 10).eepi.phase = p ∧
        (inPhase p 10).eepi.n ≠ 11 ∧ (inPhase p 10).eepi.n ≠ 15 ∧ (inPhase p 15).eepi.n = 15 ∧
        (inPhase p 15).cfg.variant = .gmod2) := by
  refine ⟨by decide, by decide, by decide, rfl, fun p => ?_⟩
  cases p <;> decide

/-- Each command state, and both reserved offsets, the low eleven bits alone compared. -/
theorem witness_FlashCommandMachine :
    (session .easyflash 2).reg.carten = true ∧ (disable (session .easyflash 2)).reg.carten = false ∧
      hasWindow (session .easyflash 2).cfg .l = true ∧ hasWindow (lowOnly (session .easyflash 2)).cfg .h = false ∧
      (∀ f : FlashState, flashOf (setFlash .l f (session .easyflash 2)) .l = f) ∧
      atFlA 0x1555 ∧ atFlB 0x0AAA ∧ ¬atFlA 0x0556 ∧ ¬atFlB 0x0555 ∧ (0x10 : Byte) ≠ 0x30 :=
  ⟨rfl, rfl, rfl, rfl, fun f => rfl, rfl, rfl, by unfold atFlA; decide, by unfold atFlB; decide, by decide⟩

theorem witness_FlashProgramRoundTrip :
    flashOf (session .easyflash 2) .h = .read ∧ hasWindow (session .easyflash 2).cfg .h = true ∧
      (session .easyflash 2).reg.carten = true ∧ atFlA 0x0555 ∧ atFlB 0x02AA ∧ atFlA 0x1D55 :=
  ⟨rfl, rfl, rfl, rfl, rfl, rfl⟩

theorem witness_SectorEraseFillsTheSector :
    flashOf (inBank 9 (session .easyflash 16)) .l = .read ∧ hasWindow (session .easyflash 16).cfg .l = true ∧
      (inBank 9 (session .easyflash 16)).reg.carten = true ∧ (session .easyflash 16).cfg.accepted ∧ (inBank 9 (session .easyflash 16)).reg.bank.toNat < 16 ∧
      1 ≤ (session .easyflash 16).cfg.flashSectorBanks ∧ atFlA 0x0555 ∧ atFlB 0x02AA :=
  ⟨rfl, rfl, rfl, ⟨by decide, by decide, .inl rfl⟩, by decide, by decide, rfl, rfl⟩

/-- With the latch set and with it clear. -/
theorem witness_EepromWriteFrameStoresTheWord :
    (writable (session .gmod2 64)).cfg.variant = .gmod2 ∧ (writable (session .gmod2 64)).eepi.cs = false ∧
      (writable (session .gmod2 64)).eepi.wen = true ∧ (session .gmod2 64).eepi.cs = false ∧
      (session .gmod2 64).eepi.wen = false := by decide

/-- Each address range of the opcode 00, at its ends. -/
theorem witness_EepromCommandFrames :
    (session .gmod2 64).cfg.variant = .gmod2 ∧ (session .gmod2 64).eepi.cs = false ∧
      (0x300 : BitVec 10).toNat / 256 = 3 ∧ (0x3FF : BitVec 10).toNat / 256 = 3 ∧ (0x000 : BitVec 10).toNat / 256 = 0 ∧
      (0x0FF : BitVec 10).toNat / 256 = 0 ∧ (0x200 : BitVec 10).toNat / 256 = 2 ∧ (0x2FF : BitVec 10).toNat / 256 = 2 ∧
      (0x100 : BitVec 10).toNat / 256 = 1 ∧ (0x1FF : BitVec 10).toNat / 256 = 1 := by decide

theorem witness_EepromReadFrameReturnsTheWords :
    (session .gmod2 64).cfg.variant = .gmod2 ∧ (session .gmod2 64).eepi.cs = false := by decide

/-- The armed freezer after the button went up again. -/
def armedReleased : State := { armed 1 with frz := { (armed 1).frz with btnCnt := 0 } }

/-- An idle freezer, an armed one with the button up again, and a count at the threshold. -/
theorem witness_ButtonDebounceGivesOneEdge :
    isFreezer (session .fixed 1).cfg.variant = false ∧ isFreezer (session .freezeframe 1).cfg.variant = true ∧
      (session .freezeframe 1).frz.fs = .idle ∧
      (session .freezeframe 1).frz.btnCnt < (session .freezeframe 1).cfg.buttonDebounceN ∧
      isFreezer armedReleased.cfg.variant = true ∧ armedReleased.frz.fs ≠ .idle ∧
      armedReleased.frz.btnCnt < armedReleased.cfg.buttonDebounceN ∧
      (armed 1).cfg.buttonDebounceN ≤ (armed 1).frz.btnCnt := by decide

theorem witness_NmiTimeline :
    isFreezer (session .actionreplay 4).cfg.variant = true ∧ (session .actionreplay 4).frz.fs = .idle := by decide

theorem witness_EnterActiveMapsTheCartridge :
    (session .freezeframe 1).cfg.variant = .freezeframe ∧ (session .actionreplay 4).cfg.variant = .actionreplay ∧
      (session .supersnapshot5 4).cfg.variant = .supersnapshot5 := by decide

/-- The armed freezer with an auto-disable countdown that stands at 0. -/
def armedExpiring : State :=
  { armed 2 with cfg := { (armed 2).cfg with autoDisableCycles := some 5 }, capCnt := 0 }

/-- No armed freezer; then the four clauses: a video sample, a read, a write that is not the third, the third write, with
no auto-disable and with one that expires. -/
theorem witness_ArmedCountsConsecutiveWrites :
    ¬(isFreezer (session .freezeframe 1).cfg.variant = true ∧ (session .freezeframe 1).frz.fs = .armed) ∧
      (∀ n, (armed n).frz.fs = .armed ∧ isFreezer (armed n).cfg.variant = true ∧
        (armed n).cfg.autoDisableCycles = none) ∧
      (Cycle (presented (armed 1) videoLine) (lineEnv videoLine) (done (armed 1) videoLine) ∧
        ¬FiresReset (presented (armed 1) videoLine) (lineEnv videoLine) ∧ (lineEnv videoLine).p1.vid = true) ∧
      (Cycle (presented (armed 1) readLine) (lineEnv readLine) (done (armed 1) readLine) ∧
        ¬FiresReset (presented (armed 1) readLine) (lineEnv readLine) ∧ (lineEnv readLine).p1.vid = false ∧
        (lineEnv readLine).p1.rw = true) ∧
      (Cycle (presented (armed 2) writeLine) (lineEnv writeLine) (done (armed 2) writeLine) ∧
        ¬FiresReset (presented (armed 2) writeLine) (lineEnv writeLine) ∧ (lineEnv writeLine).p1.vid = false ∧
        (lineEnv writeLine).p1.rw = false ∧ (armed 2).frz.wrCnt = 2 ∧ (armed 1).frz.wrCnt ≠ 2) ∧
      (Cycle (presented armedExpiring writeLine) (lineEnv writeLine) (done armedExpiring writeLine) ∧
        ¬FiresReset (presented armedExpiring writeLine) (lineEnv writeLine) ∧ armedExpiring.frz.wrCnt = 2 ∧
        armedExpiring.cfg.autoDisableCycles ≠ none ∧ armedExpiring.capCnt = 0) :=
  ⟨by decide, fun _ => ⟨rfl, rfl, rfl⟩, ⟨⟨rfl, rfl, rfl⟩, fun h => (by cases h.1), rfl⟩,
    ⟨⟨rfl, rfl, rfl⟩, fun h => (by cases h.1), rfl, rfl⟩,
    ⟨⟨rfl, rfl, rfl⟩, fun h => (by cases h.1), rfl, rfl, rfl, by decide⟩,
    ⟨⟨rfl, rfl, rfl⟩, fun h => (by cases h.1), rfl, by decide, rfl⟩⟩

theorem witness_FreezeLeavesOnlyByReset :
    Cycle (presented (armed 2) writeLine) (lineEnv writeLine) (done (armed 2) writeLine) ∧
      ¬FiresReset (presented (armed 2) writeLine) (lineEnv writeLine) ∧ (armed 2).frz.fs = .armed ∧
      (done (armed 2) writeLine).frz.fs = .active ∧ (session .actionreplay 4).frz.fs = .idle :=
  ⟨⟨rfl, rfl, rfl⟩, fun h => (by cases h.1), rfl, by decide, rfl⟩

/-- No auto-disable; a disabled cartridge with one; an enabled one. -/
theorem witness_AutoDisableTimeline :
    (session .fixed 1).cfg.autoDisableCycles = none ∧
      (disable epyx).reg.carten = false ∧ (disable epyx).cfg.autoDisableCycles ≠ none ∧
      epyx.reg.carten = true ∧ epyx.cfg.autoDisableCycles ≠ none := by decide

/-- A reset pulse of three invocations, with the threshold at three, and the other ranges of the counter. -/
theorem witness_ResetPulseFiresOnce :
    (State.reset.rst.cnt + 1 < State.reset.cfg.resetDebounceN ∧ (counted 2).rst.cnt + 1 = (counted 2).cfg.resetDebounceN ∧
      (counted 3).cfg.resetDebounceN ≤ (counted 3).rst.cnt) ∧
      pulsed.active = true ∧ pulsed.inputs = (List.replicate 3 resetEnv).map .clkIrq ++ [] ∧
      (∀ e ∈ List.replicate 3 resetEnv, e.resetIn = true) ∧ 1 ≤ pulsed.cfg.resetDebounceN ∧ pulsed.rst.cnt = 0 ∧
      pulsed.rst.pressed = false ∧ 3 ≤ (List.replicate 3 resetEnv).length ∧ ∃ t, core.run 3 pulsed = .next t :=
  ⟨by decide, rfl, rfl, by decide, by decide, rfl, rfl, by decide, _, rfl⟩

theorem witness_ResetWins :
    ∃ t, (presented (counted 2) { idleLine with rst := true }).active = true ∧
      (presented (counted 2) { idleLine with rst := true }).inputs = .clkIrq resetEnv :: [] ∧
      FiresReset (presented (counted 2) { idleLine with rst := true }) resetEnv ∧
      step (presented (counted 2) { idleLine with rst := true }) = .next t :=
  ⟨_, rfl, rfl, ⟨rfl, rfl⟩, rfl⟩

/-- Each input, and each way an activation ends. -/
theorem witness_ActivationOutcome :
    (loaded (.failure .truncated)).inputs = .activate (.failure .truncated) :: [] ∧
      (loaded (.ok Cfg.default [] [])).inputs = .activate (.ok Cfg.default [] []) :: [] ∧ Cfg.default.accepted ∧
      ({ Cfg.default with bankCount := 0 } : Cfg).bankCount = 0 ∧
      256 < ({ Cfg.default with bankCount := 257 } : Cfg).bankCount ∧ Cfg.default.hasL ≠ false ∧
      { State.reset with inputs := [.deactivate] }.inputs = .deactivate :: [] :=
  ⟨rfl, rfl, ⟨by decide, by decide, .inl rfl⟩, rfl, by decide, by decide, rfl⟩

theorem witness_ActivationValues :
    (loaded (.ok Cfg.default [(0, 1)] [])).inputs = .activate (.ok Cfg.default [(0, 1)] []) :: [] ∧
      Cfg.default.accepted :=
  ⟨rfl, by decide, by decide, .inl rfl⟩

theorem witness_LoadedContentsAreReadBack :
    ∃ t, (loaded (.ok Cfg.default [(0, 1), (0, 2)] [])).inputs = .activate (.ok Cfg.default [(0, 1), (0, 2)] []) :: [] ∧
      Cfg.default.accepted ∧ step (loaded (.ok Cfg.default [(0, 1), (0, 2)] [])) = .next t :=
  ⟨_, rfl, ⟨by decide, by decide, .inl rfl⟩, rfl⟩

/-- A session about to take a sample satisfies the invariant, and its step answers. -/
theorem witness_EveryStepKeepsTheInvariant :
    Inv (presented State.reset readLine) ∧ ∃ t, step (presented State.reset readLine) = .next t :=
  ⟨{ canonical := ⟨Memory.wf_nil _, Memory.wf_nil _, Memory.wf_nil _, Memory.wf_nil _⟩
     inRange := ⟨fun _ h => (by cases h), fun _ h => (by cases h), fun _ h => (by cases h), fun _ h => (by cases h)⟩
     banks := ⟨⟨by decide, by decide, .inl rfl⟩, by decide, by decide⟩
     dma := ⟨.inl rfl, rfl, fun _ => ⟨rfl, rfl⟩, fun _ h => (by cases h), fun _ h => (by cases h)⟩
     residency := ⟨fun _ => rfl, fun h => (by cases h), fun h => (by rcases h with h | h <;> exact absurd rfl h)⟩
     reset := ⟨by decide, by decide, by decide⟩
     freeze := ⟨by decide, by decide, by decide, by decide, by decide, by decide⟩
     cap := by unfold CapSound; decide
     eeprom := ⟨by decide, by decide, by decide⟩
     foreign := ⟨by decide, by decide, by decide, by decide, by decide, by decide⟩
     outputs := fun h => (by cases h) }, _, rfl⟩

end Sys2Proof.Tests
end

section
/-!
PROOF. The two memory primitives and the flash program, as reads see them, and the indices the operations form
(20_memory R60 to R63).
-/

namespace Sys2Proof.Machine

/-! ### The memory primitives -/

/-- A fill is what an index without a cell reads as: a write of it may remove the cell. -/
theorem unlistedByte_of_fillOf {sp : Space} {v : Byte} (h : fillOf sp = some v) (n a : Nat) : unlistedByte sp n a = v := by
  cases sp with
  | eep => exact Option.some.inj h
  | rom | ram | shadow => cases h

@[simp] theorem memWrite_sessionNo (sp : Space) (a : Nat) (v : Byte) (s : State) :
    (memWrite sp a v s).sessionNo = s.sessionNo := by
  cases sp <;> rfl

/-- A write changes the stores only. -/
theorem memWrite_frame (sp : Space) (a : Nat) (v : Byte) (s : State) :
    memWrite sp a v s =
      { s with
        rom := (memWrite sp a v s).rom
        ram := (memWrite sp a v s).ram
        eep := (memWrite sp a v s).eep
        shadow := (memWrite sp a v s).shadow } := by
  cases sp <;> rfl

/-- A read after a write, of the store and index written and of every other. -/
theorem memRead_memWrite (sp sp' : Space) (a b : Nat) (v : Byte) (s : State) :
    memRead sp' b (memWrite sp a v s) = if sp' = sp ∧ b = a then v else memRead sp' b s := by
  unfold memRead
  rw [storeOf_memWrite, memWrite_sessionNo]
  by_cases hsp : sp' = sp
  · subst hsp
    rw [if_pos rfl, Memory.find_write]
    by_cases hb : b = a
    · by_cases hfill : fillOf sp' = some v
      · simp [hb, hfill, unlistedByte_of_fillOf hfill]
      · simp [hb, hfill]
    · simp [hb]
  · simp [hsp]

@[simp] theorem memRead_emit (sp : Space) (a : Nat) (e : OutEvent) (s : State) :
    memRead sp a (emit e s) = memRead sp a s := by
  cases sp <;> rfl

/-- A read after a flash program: the AND of the old byte and the value at the masked index, the old byte elsewhere. -/
theorem memRead_flashProgram (bank : Byte) (w : RomWindow) (off : Offset) (v : Byte) (sp : Space) (b : Nat) (s : State) :
    memRead sp b (flashProgram bank w off v s) =
      if sp = .rom ∧ b = romIndex bank w (off &&& offMask s.cfg w) then romByte bank w off s &&& v
      else memRead sp b s := by
  rw [flashProgram, memRead_emit, memRead_memWrite]

/-! ### Indices in range -/

theorem ramSize_easyflash {cfg : Cfg} (h : cfg.variant = .easyflash) : ramSize cfg = 256 := by
  simp only [ramSize, h]

theorem ramSize_actionreplay {cfg : Cfg} (h : cfg.variant = .actionreplay) : ramSize cfg = 8192 := by
  simp only [ramSize, h]

theorem ramSize_supersnapshot5 {cfg : Cfg} (h : cfg.variant = .supersnapshot5) : ramSize cfg = 32768 := by
  simp only [ramSize, h]

theorem eepWords_gmod2 {cfg : Cfg} (h : cfg.variant = .gmod2) : eepWords cfg = 1024 := by
  simp only [eepWords, h]

/-- The RAM index of SUPERSNAPSHOT5 is reduced to the size of its RAM. -/
theorem ramIdx_lt_ramSize {s : State} (h : s.cfg.variant = .supersnapshot5) (off : Offset) :
    ramIdx s off < ramSize s.cfg := by
  refine Nat.mod_lt _ ?_
  rw [ramSize_supersnapshot5 h]
  decide

/-- Both bytes of a reduced EEPROM word are inside the array. -/
theorem eepByte_lt_of_gmod2 {cfg : Cfg} (h : cfg.variant = .gmod2) (n : Nat) :
    2 * (n % eepWords cfg) + 1 < 2 * eepWords cfg := by
  rw [eepWords_gmod2 h]
  omega

end Sys2Proof.Machine

namespace Sys2Proof.Proofs

open Sys2Proof.Machine

/-- Settles O24: a read after each primitive, the frame of a write, and the bound of each index against its store. -/
theorem storeReadAfterWrite : Obligations.StoreReadAfterWrite := by
  unfold Obligations.StoreReadAfterWrite
  refine ⟨fun s sp sp' a b v => memRead_memWrite sp sp' a b v s, fun s sp a v => memWrite_frame sp a v s,
    fun s bank w off v sp b => memRead_flashProgram bank w off v sp b s, ?_⟩
  intro s b al w off n hcfg
  have hal : al.toNat < 256 := al.isLt
  have hoff : off.toNat < 8192 := off.isLt
  refine ⟨fun hb => romIndex_lt hb w _, Nat.mod_lt _ hcfg.1, fun hv => ?easyflash, fun hv => ?actionreplay,
    fun hv => ramIdx_lt_ramSize hv off, fun hv => eepByte_lt_of_gmod2 hv n⟩
  case easyflash =>
    rw [ramSize_easyflash hv]
    exact hal
  case actionreplay =>
    rw [ramSize_actionreplay hv]
    exact ⟨hoff, by omega⟩

end Sys2Proof.Proofs
end

section
/-!
PROOF. One handler invocation (40_cycle R140): the sample of the two captures, the step as the operation this sample decodes
to with the stages around it, and what the video half makes of it (46_video_window R360 to R362).
-/

namespace Sys2Proof.Machine

open Sys2Proof.Claims

/-! ### The sample of an invocation -/

/-- The low address byte and the five high bits are a remainder and a quotient of the address as a number (40_cycle R144). -/
theorem assemble_eq_sampleTaken (cfg : Cfg) (env : Env) : assemble cfg env = sampleTaken cfg env := by
  have hsecond : secondCapture cfg env = if cfg.videoSkipPhase2 = true ∧ env.p1.vid = true then env.p1 else env.p2 := by
    simp only [secondCapture, Bool.and_eq_true]
  simp only [assemble, sampleTaken, hsecond, BitVec.extractLsb', Nat.shiftRight_eq_div_pow, Nat.pow_zero, Nat.div_one,
    Nat.reducePow]

@[simp] theorem sampleTaken_vid (cfg : Cfg) (env : Env) : (sampleTaken cfg env).vid = env.p1.vid := rfl

/-- Stable lines of a sample are sampled as that sample, on a board that skips phase 2 as well. -/
@[simp] theorem sampleTaken_envOf (cfg : Cfg) (S : BusCycleSample) (resetIn buttonIn : Bool) :
    sampleTaken cfg (envOf S resetIn buttonIn) = S := by
  have hsecond : secondCapture cfg (envOf S resetIn buttonIn) = linesOf S := ite_self _
  rw [← assemble_eq_sampleTaken, assemble, hsecond]
  simp only [envOf, linesOf, BusCycleSample.off, extract_append_high, extract_append_low]

/-! ### The step of a live session -/

/-- The packing into a dispatch word is undone by decoding it (40_cycle R146). -/
theorem operationOf_eq (s : State) (env : Env) :
    operationOf s env = decodeSample s.cfg.variant (sampleTaken s.cfg env) := by
  rw [operationOf, decode_dispatchWord, sampleIn, assemble_eq_sampleTaken]

theorem beforeOperation_eq (s : State) (env : Env) :
    beforeOperation s env = recordShadow (sampleTaken s.cfg env) (beginInvocation s) := by
  rw [beforeOperation, sampleIn, assemble_eq_sampleTaken]

/-- Freeze observation of a CPU-half sample, then the five ticks in their order (40_cycle R140, R152). -/
theorem finishInvocation_eq (s : State) (env : Env) (t : State) :
    finishInvocation s env t = stageSeven env (if env.p1.vid = true then t else freezeObserve env.p1.rw t) := rfl

/-- The clock interrupt starts an invocation in a session (60_exceptions R372). -/
theorem step_clkIrq {s : State} {env : Env} {rest : List Input} (hactive : s.active = true)
    (hinputs : s.inputs = .clkIrq env :: rest) : step s = invocation env { s with inputs := rest } := by
  rw [step, nextInput, hinputs]
  exact if_pos hactive

/-- An invocation that answers `t` has run its operation to completion, with the stages of R140 around it. -/
theorem cycle_runs {s t : State} {env : Env} (h : Cycle s env t) :
    ∃ u, exec (decodeSample s.cfg.variant (sampleTaken s.cfg env))
          (recordShadow (sampleTaken s.cfg env) (beginInvocation { s with inputs := s.inputs.tail })) = .next u ∧
      t = stageSeven env (if env.p1.vid = true then u else freezeObserve env.p1.rw u) := by
  obtain ⟨hactive, hhead, hstep⟩ := h
  rw [step_clkIrq hactive (List.eq_cons_of_mem_head? hhead), invocation, operationOf_eq, beforeOperation_eq] at hstep
  split at hstep
  next u hexec =>
    cases hstep
    exact ⟨u, hexec, finishInvocation_eq _ env u⟩
  all_goals cases hstep

/-! ### A presented word -/

@[simp] theorem inVariant_variant (v : Variant) (s : State) : (inVariant v s).cfg.variant = v := by
  rw [(inVariant_eq v s).1, forVariant_variant]

/-- The dispatch word that a presented word's sample and session form is the word itself. -/
theorem dispatchWord_withFetchWord (s : State) (n w : Nat) :
    dispatchWord (s.withFetchWord n w).cfg.variant
        (sampleTaken (s.withFetchWord n w).cfg (envOf (wordSample (BitVec.ofNat 32 w)) false false)) =
      BitVec.ofNat 32 w := by
  rw [sampleTaken_envOf]
  simp only [State.withFetchWord, presentSample, inVariant_variant, dispatchWord_surjective]

/-! ### The byte of a video-half read -/

theorem romReadByte_eq_gatedRom (b : Byte) (w : RomWindow) (off : Offset) (s : State) :
    romReadByte b w off s = gatedRom s b w off := by
  simp only [romReadByte, gatedRom, romByte, romAt, Bool.and_eq_true]

theorem hiOrMirrorByte_eq_mirroredRom (off : Offset) (s : State) :
    hiOrMirrorByte s.reg.bank off s = mirroredRom s off := by
  cases hen : s.reg.carten <;> cases hh : s.cfg.hasH <;>
    simp [hiOrMirrorByte, mirroredRom, gatedRom, hasWindow, romByte, romAt, hen, hh]

/-- The two low bits of CTRL are its remainder by four (44_freezer section 3). -/
theorem atomicRam_iff (s : State) : atomicRam s = true ↔ AtomicRam s := by
  have hlow : s.reg.ctrl.extractLsb' 0 2 = 0b10#2 ↔ s.reg.ctrl.toNat % 4 = 2 := by
    simp [← BitVec.toNat_inj]
  simp only [atomicRam, AtomicRam, Bool.and_eq_true, decide_eq_true_eq, hlow, and_assoc]

theorem arRomhByte_eq_actionReplayHigh (off : Offset) (s : State) : arRomhByte off s = actionReplayHigh s off := by
  simp only [arRomhByte, actionReplayHigh, Bool.and_eq_true, atomicRam_iff, hiOrMirrorByte_eq_mirroredRom]

/-- What the video handler fetches is the byte of the table of R360, variant by variant. -/
theorem videoRomh_eq_videoHigh (off : Offset) (s : State) : videoRomh off s = videoHigh s off := by
  cases hv : s.cfg.variant <;>
    simp only [videoRomh, videoHigh, hv, romReadByte_eq_gatedRom, hiOrMirrorByte_eq_mirroredRom,
      arRomhByte_eq_actionReplayHigh]

/-- The byte of a video-half read does not depend on the outputs and the inputs of the machine. -/
theorem videoHigh_beginInvocation (off : Offset) (s : State) (is : List Input) :
    videoHigh (beginInvocation { s with inputs := is }) off = videoHigh s off := rfl

/-! ### The operations of the video half -/

theorem exec_vidRomhR (off : Offset) (s : State) :
    exec (.vidRomhR off) s = .next { s with drive := (videoHigh s off).or s.drive } := by
  rw [← videoRomh_eq_videoHigh, ← driveOption_eq]
  rfl

/-- A video-half sample changes the driven byte at most, and on a ROM-high read only (46_video_window R360 to R362). -/
theorem exec_decodeSample_of_vid {S : BusCycleSample} (hvid : S.vid = true) (v : Variant) (s : State) :
    exec (decodeSample v S) s =
      .next { s with drive := (if S.rw = true ∧ S.romh = true then videoHigh s S.off else none).or s.drive } := by
  rw [decodeSample, if_pos hvid]
  by_cases hrw : S.rw = true
  · by_cases hromh : S.romh = true
    · rw [if_pos hrw, if_pos hromh, if_pos ⟨hrw, hromh⟩, exec_vidRomhR]
    · rw [if_pos hrw, if_neg hromh, if_neg fun h => hromh h.2, Option.none_or]
      rfl
  · rw [if_neg hrw, if_neg fun h => hrw h.1, Option.none_or]
    rfl

theorem recordShadow_of_vid {S : BusCycleSample} (hvid : S.vid = true) (s : State) : recordShadow S s = s := by
  rw [recordShadow, hvid, Bool.true_or, if_pos rfl]

end Sys2Proof.Machine

namespace Sys2Proof.Proofs

open Sys2Proof.Machine Sys2Proof.Claims

/-- Settles O16: the state an invocation answers, with its operation and its shadow write in each half. -/
theorem stageFiveChoosesByTheVideoHalf : Obligations.StageFiveChoosesByTheVideoHalf := by
  intro s t env h
  obtain ⟨u, hexec, ht⟩ := cycle_runs h
  refine ⟨fun hvid => ?video, fun hvid => ?cpu⟩
  case video =>
    have hS := (sampleTaken_vid s.cfg env).trans hvid
    rw [recordShadow_of_vid hS, exec_decodeSample_of_vid hS, videoHigh_beginInvocation, beginInvocation_drive,
      Option.or_none] at hexec
    cases hexec
    rw [ht, if_pos hvid]
    rfl
  case cpu =>
    have hdecode : decodeSample s.cfg.variant (sampleTaken s.cfg env) =
        decodeVariant s.cfg.variant (sampleTaken s.cfg env) := if_neg (by simp [hvid])
    rw [hdecode] at hexec
    exact ⟨u, hexec, by rw [ht, if_neg (by simp [hvid])]⟩

/-- Settles O7: the step is one invocation, and each of its stages is the one the statement writes out. -/
theorem stepRunsTheDecodedOperation : Obligations.StepRunsTheDecodedOperation := by
  rintro s env rest i hactive hinputs rfl
  rw [step_clkIrq hactive hinputs, invocation, operationOf_eq, beforeOperation_eq, decode_dispatchWord]
  rfl

/-- Settles O8: the step of a live session, with the presented sample as its next input. -/
theorem fetchedWordRunsNext : Obligations.FetchedWordRunsNext := by
  intro s n w S
  have hinputs : (s.withFetchWord n w).inputs = .clkIrq (envOf S false false) :: s.inputs := rfl
  rw [stepRunsTheDecodedOperation _ _ _ _ rfl hinputs rfl, dispatchWord_withFetchWord, sampleTaken_envOf]
  rfl

end Sys2Proof.Proofs
end

section
/-!
PROOF. Totality (60_exceptions R370): every operation answers a next state, hence every invocation, every input and every
step. What the stages before and after the operation do is a function of states; only `exec` could fault or refuse.
-/

namespace Sys2Proof.Machine

/-- No operation raises a fault, and none is without a meaning. -/
theorem exec_completes (i : Instr) (s : State) : ∃ t, exec i s = .next t := by
  cases i <;> exact ⟨_, rfl⟩

/-- An invocation answers what its stages make of the state its operation answers (40_cycle R140). -/
theorem invocation_of_exec {env : Env} {s u : State}
    (h : exec (operationOf s env) (beforeOperation s env) = .next u) :
    invocation env s = .next (finishInvocation s env u) := by
  rw [invocation, h]

theorem invocation_completes (env : Env) (s : State) : ∃ t, invocation env s = .next t := by
  obtain ⟨u, hu⟩ := exec_completes (operationOf s env) (beforeOperation s env)
  exact ⟨_, invocation_of_exec hu⟩

/-- Without a session the clock interrupt does nothing (60_exceptions R371). -/
theorem receive_clkIrq (env : Env) (s : State) :
    receive (.clkIrq env) s = if s.active = true then invocation env s else .next s := rfl

/-- An interrupt completes in a session and without one; so do the two session operations, a failed activation included. -/
theorem receive_completes (i : Input) (s : State) : ∃ t, receive i s = .next t := by
  cases i with
  | clkIrq env =>
    rw [receive_clkIrq]
    split
    · exact invocation_completes env s
    · exact ⟨s, rfl⟩
  | activate r => exact ⟨activate r s, rfl⟩
  | deactivate => exact ⟨deactivate s, rfl⟩

theorem step_of_nil {s : State} (h : s.inputs = []) : step s = .next s := by
  rw [step, nextInput, h]

theorem step_of_cons {s : State} {i : Input} {rest : List Input} (h : s.inputs = i :: rest) :
    step s = receive i { s with inputs := rest } := by
  rw [step, nextInput, h]

theorem step_completes (s : State) : ∃ t, step s = .next t := by
  cases h : s.inputs with
  | nil => exact ⟨s, step_of_nil h⟩
  | cons i rest =>
    rw [step_of_cons h]
    exact receive_completes i { s with inputs := rest }

end Sys2Proof.Machine

namespace Sys2Proof.Proofs

open Sys2Proof.Machine

/-- Settles O9: every operation by its meaning, every step by the input it takes. -/
theorem everyStepCompletes : Obligations.EveryStepCompletes :=
  ⟨exec_completes, step_completes⟩

end Sys2Proof.Proofs
end

section
/-!
PROOF. Encoding and decoding (30_encoding R100 to R107): what a row of the operation map reads of a word, the operands, and
the canonical samples of the encoder.
-/

namespace Sys2Proof

open Sys2Proof.Claims

/-! ### The served window -/

theorem win_eq_romh_iff (S : BusCycleSample) : S.win = .romh ↔ S.romh = true := by
  unfold BusCycleSample.win
  cases S.romh <;> cases S.roml <;> cases S.io1 <;> cases S.io2 <;> decide

theorem win_eq_roml_iff (S : BusCycleSample) : S.win = .roml ↔ S.romh = false ∧ S.roml = true := by
  unfold BusCycleSample.win
  cases S.romh <;> cases S.roml <;> cases S.io1 <;> cases S.io2 <;> decide

theorem win_eq_io1_iff (S : BusCycleSample) :
    S.win = .io1 ↔ S.romh = false ∧ S.roml = false ∧ S.io1 = true := by
  unfold BusCycleSample.win
  cases S.romh <;> cases S.roml <;> cases S.io1 <;> cases S.io2 <;> decide

theorem win_eq_io2_iff (S : BusCycleSample) :
    S.win = .io2 ↔ S.romh = false ∧ S.roml = false ∧ S.io1 = false ∧ S.io2 = true := by
  unfold BusCycleSample.win
  cases S.romh <;> cases S.roml <;> cases S.io1 <;> cases S.io2 <;> decide

theorem win_eq_unselected_iff (S : BusCycleSample) :
    S.win = .unselected ↔ S.romh = false ∧ S.roml = false ∧ S.io1 = false ∧ S.io2 = false := by
  unfold BusCycleSample.win
  cases S.romh <;> cases S.roml <;> cases S.io1 <;> cases S.io2 <;> decide

/-! ### Decoding the canonical samples -/

@[simp] theorem sampleOf_win (win : Win) (rw : Bool) (hi : BitVec 5) (lo d : Byte) :
    (sampleOf win rw hi lo d).win = win := by
  cases win <;> rfl

@[simp] theorem romSample_off (win : Win) (rw : Bool) (off : Offset) (d : Byte) :
    (romSample win rw off d).off = off :=
  offHi_append_offLo off

@[simp] theorem romSample_win (win : Win) (rw : Bool) (off : Offset) (d : Byte) : (romSample win rw off d).win = win :=
  sampleOf_win ..

@[simp] theorem ioSample_win (win : Win) (rw : Bool) (al d : Byte) : (ioSample win rw al d).win = win :=
  sampleOf_win ..

/-- The encoder's sample of a well-formed operation decodes to it in the encoder's variant. -/
theorem decodeSample_sample (i : Instr) (h : i.wellFormed = true) : decodeSample i.sample.1 i.sample.2 = i := by
  cases i with
  | efIo1WBank al d =>
    have hbit : ¬al.getLsbD 1 = true := by simpa [Instr.wellFormed] using h
    exact if_neg hbit
  | efIo1WCtrl al d =>
    have hbit : al.getLsbD 1 = true := h
    exact if_pos hbit
  | vidRomhR off => exact congrArg Instr.vidRomhR (romSample_off .romh true off 0)
  | vidIgnW | vidIgnNr | ign => rfl
  | _ =>
    -- the window and the direction of the sample pick the row of the variant
    simp only [Instr.sample, decodeSample, decodeVariant, romSample_win, ioSample_win, romSample_off]
    rfl

/-! ### The row decoded -/

/-- The row depends on the half, the direction, in the video half ROM-high alone, and else the variant, the window and, for
an EASYFLASH I/O1 write, address bit 1. -/
theorem decodeSample_mnemonic_congr {v v' : Variant} {S S' : BusCycleSample} (hvid : S.vid = S'.vid)
    (hrw : S.rw = S'.rw) (hvideo : S'.vid = true → S'.rw = true → S.romh = S'.romh)
    (hcpu : S'.vid = false → v = v' ∧ S.win = S'.win ∧
      (v' = .easyflash → S'.win = .io1 → S'.rw = false → S.addrLo.getLsbD 1 = S'.addrLo.getLsbD 1)) :
    (decodeSample v S).mnemonic = (decodeSample v' S').mnemonic := by
  unfold decodeSample
  rw [hvid, hrw]
  cases hvid' : S'.vid with
  | true =>
    cases hrw' : S'.rw with
    | true =>
      rw [hvideo hvid' hrw']
      cases S'.romh <;> rfl
    | false => rfl
  | false =>
    obtain ⟨rfl, hwin, hbit⟩ := hcpu hvid'
    unfold decodeVariant
    rw [hwin, hrw]
    cases v with
    | easyflash =>
      cases hwin' : S'.win with
      | io1 =>
        cases hrw' : S'.rw with
        | true => rfl
        | false =>
          simp only [hbit rfl hwin' hrw']
          cases S'.addrLo.getLsbD 1 <;> rfl
      | _ => cases S'.rw <;> rfl
    | _ => cases S'.win <;> cases S'.rw <;> rfl

theorem eq_ign_of_mnemonic {i : Instr} (h : i.mnemonic = Instr.ign.mnemonic) : i = .ign := by
  cases i with
  | ign => rfl
  | _ => simp [Instr.mnemonic] at h

/-! ### The rows of the operation map -/

/-- Two words that differ on a bit both rows fix cannot be one word. -/
theorem rows_disjoint :
    opcodeTable.Pairwise fun a b => a.pattern &&& b.mask ≠ b.pattern &&& a.mask := by
  decide

/-- No word is claimed by two rows. -/
theorem rows_exclusive (dw : DispatchWord) :
    opcodeTable.Pairwise fun a b => ¬(dw &&& a.mask = a.pattern ∧ dw &&& b.mask = b.pattern) := by
  refine rows_disjoint.imp ?_
  rintro a b hab ⟨ha, hb⟩
  apply hab
  rw [← ha, ← hb, BitVec.and_assoc, BitVec.and_assoc, BitVec.and_comm a.mask]

/-- A bit the mask of a row keeps is the bit of its pattern. -/
theorem getLsbD_of_and_eq {dw m p : DispatchWord} (h : dw &&& m = p) {k : Nat} (hk : m.getLsbD k = true) :
    dw.getLsbD k = p.getLsbD k := by
  rw [← h, BitVec.getLsbD_and, hk, Bool.and_true]

/-- The bits the row decoded depends on are kept by the mask of the row: in the video half the direction and, on a read,
ROM-high; else the tag, the direction, the selects down to the one that serves, and address bit 1 for the EASYFLASH I/O1
writes (30_encoding R105, R106). -/
def OpcodeRow.decisive (r : OpcodeRow) : Bool :=
  r.mask.getLsbD 17 && r.mask.getLsbD 19 &&
    if r.pattern.getLsbD 17 then !r.pattern.getLsbD 19 || r.mask.getLsbD 14
    else
      r.mask.extractLsb' 28 4 = 0xF#4 && r.mask.getLsbD 14 &&
        (r.pattern.getLsbD 14 ||
          r.mask.getLsbD 13 &&
            (r.pattern.getLsbD 13 ||
              r.mask.getLsbD 15 &&
                (if r.pattern.getLsbD 15 then
                  r.mask.getLsbD 1 || r.pattern.getLsbD 19 || r.pattern.extractLsb' 28 4 != 0xA#4
                else r.mask.getLsbD 16)))

theorem rows_decisive : ∀ r ∈ opcodeTable, r.decisive = true := by decide

theorem rows_name_their_pattern : ∀ r ∈ opcodeTable, (decode r.pattern).mnemonic = r.mnemonic := by decide

/-! ### The fields of a word -/

theorem wordSample_rw (dw : DispatchWord) : (wordSample dw).rw = dw.getLsbD 19 := by
  simp [wordSample, BusCycleSample.ofWord]

theorem wordSample_vid (dw : DispatchWord) : (wordSample dw).vid = dw.getLsbD 17 := by
  simp [wordSample, BusCycleSample.ofWord]

theorem wordSample_io2 (dw : DispatchWord) : (wordSample dw).io2 = dw.getLsbD 16 := by
  simp [wordSample, BusCycleSample.ofWord]

theorem wordSample_io1 (dw : DispatchWord) : (wordSample dw).io1 = dw.getLsbD 15 := by
  simp [wordSample, BusCycleSample.ofWord]

theorem wordSample_romh (dw : DispatchWord) : (wordSample dw).romh = dw.getLsbD 14 := by
  simp [wordSample, BusCycleSample.ofWord]

theorem wordSample_roml (dw : DispatchWord) : (wordSample dw).roml = dw.getLsbD 13 := by
  simp [wordSample, BusCycleSample.ofWord]

theorem wordSample_addrLo_bit1 (dw : DispatchWord) : (wordSample dw).addrLo.getLsbD 1 = dw.getLsbD 1 := by
  simp [wordSample, BusCycleSample.ofWord]

/-- `OFF` is bits 12..0 of the word (30_encoding R103). -/
theorem wordSample_off (dw : DispatchWord) : (wordSample dw).off = BitVec.ofNat 13 dw.toNat := by
  have hoff : (wordSample dw).off = (dw.extractLsb' 0 28).extractLsb' 0 13 := extract_join (dw.extractLsb' 0 28) 0 8 5
  apply BitVec.eq_of_toNat_eq
  rw [hoff]
  simp

/-- `AL` is bits 7..0 of the word (30_encoding R103). -/
theorem wordSample_addrLo (dw : DispatchWord) : (wordSample dw).addrLo = BitVec.ofNat 8 dw.toNat := by
  apply BitVec.eq_of_toNat_eq
  simp [wordSample, BusCycleSample.ofWord]

/-- `D` is bits 27..20 of the word (30_encoding R103). -/
theorem wordSample_data (dw : DispatchWord) : (wordSample dw).data = BitVec.ofNat 8 (dw.toNat / 2 ^ 20) := by
  apply BitVec.eq_of_toNat_eq
  simp only [wordSample, BusCycleSample.ofWord, BitVec.extractLsb'_toNat, BitVec.toNat_ofNat,
    Nat.shiftRight_eq_div_pow, Nat.pow_zero, Nat.div_one]
  omega

/-! ### From a row to the operation -/

/-- A word a decisive row claims decodes to the row the pattern itself decodes to. -/
theorem decode_mnemonic_of_row {r : OpcodeRow} (hr : r.decisive = true) {dw : DispatchWord}
    (h : dw &&& r.mask = r.pattern) : (decode dw).mnemonic = (decode r.pattern).mnemonic := by
  have keep {k : Nat} (hk : r.mask.getLsbD k = true) : dw.getLsbD k = r.pattern.getLsbD k := getLsbD_of_and_eq h hk
  simp only [OpcodeRow.decisive, Bool.and_eq_true] at hr
  obtain ⟨⟨hvid, hrw⟩, hhalf⟩ := hr
  unfold decode
  refine decodeSample_mnemonic_congr ?_ ?_ (fun hv hd => ?video) fun hv => ?cpu
  · rw [wordSample_vid, wordSample_vid, keep hvid]
  · rw [wordSample_rw, wordSample_rw, keep hrw]
  case video =>
    rw [wordSample_vid] at hv
    rw [wordSample_rw] at hd
    rw [hv, hd, if_pos rfl] at hhalf
    rw [wordSample_romh, wordSample_romh, keep (by simpa using hhalf)]
  case cpu =>
    rw [wordSample_vid] at hv
    rw [hv, if_neg Bool.false_ne_true] at hhalf
    simp only [Bool.and_eq_true, decide_eq_true_eq] at hhalf
    obtain ⟨⟨htag, hromh⟩, hsel⟩ := hhalf
    have hv' : dw.extractLsb' 28 4 = r.pattern.extractLsb' 28 4 := by
      rw [← h, BitVec.extractLsb'_and, htag]
      exact (BitVec.and_allOnes (x := dw.extractLsb' 28 4)).symm
    refine ⟨congrArg Variant.ofTag hv', ?window, ?bit1⟩
    case window =>
      simp only [BusCycleSample.win, wordSample_romh, wordSample_roml, wordSample_io1, wordSample_io2, keep hromh]
      cases hp14 : r.pattern.getLsbD 14 with
      | true => rfl
      | false =>
        simp only [hp14, Bool.false_or, Bool.and_eq_true] at hsel
        obtain ⟨hroml, hsel⟩ := hsel
        rw [keep hroml]
        cases hp13 : r.pattern.getLsbD 13 with
        | true => rfl
        | false =>
          simp only [hp13, Bool.false_or, Bool.and_eq_true] at hsel
          obtain ⟨hio1, hsel⟩ := hsel
          rw [keep hio1]
          cases hp15 : r.pattern.getLsbD 15 with
          | true => rfl
          | false =>
            rw [hp15, if_neg Bool.false_ne_true] at hsel
            rw [keep hsel]
    case bit1 =>
      intro heasy hwin hwrite
      obtain ⟨hp14, hp13, hp15⟩ := (win_eq_io1_iff _).mp hwin
      rw [wordSample_romh] at hp14
      rw [wordSample_roml] at hp13
      rw [wordSample_io1] at hp15
      rw [wordSample_rw] at hwrite
      have hp28 : r.pattern.extractLsb' 28 4 = 0xA#4 := by
        rw [← Variant.tag_ofTag (r.pattern.extractLsb' 28 4)]
        exact congrArg Variant.tag heasy
      simp only [hp14, hp13, hp15, hwrite, hp28, Bool.false_or, Bool.or_false, Bool.and_eq_true, if_true] at hsel
      rw [wordSample_addrLo_bit1, wordSample_addrLo_bit1, keep (by simpa using hsel.2.2)]

/-- The row that claims a word names the operation decoded (30_encoding R106, R107). -/
theorem decode_mnemonic_of_mem {r : OpcodeRow} (hr : r ∈ opcodeTable) {dw : DispatchWord}
    (h : dw &&& r.mask = r.pattern) : (decode dw).mnemonic = r.mnemonic :=
  (decode_mnemonic_of_row (rows_decisive r hr) h).trans (rows_name_their_pattern r hr)

/-! ### From the operation to a row -/

/-- The mask of the rows of a window (30_encoding R107). -/
def cellMask : Win → DispatchWord
  | .romh => 0xF00A4000
  | .roml => 0xF00A6000
  | .io1 => 0xF00AE000
  | .io2 | .unselected => 0xF00BE000

/-- What that mask leaves of a CPU-half sample of that window, by its direction. -/
def cellPattern (w : Win) (rw : Bool) : SampleWord :=
  match w with
  | .romh => if rw then 0x0084000 else 0x0004000
  | .roml => if rw then 0x0082000 else 0x0002000
  | .io1 => if rw then 0x0088000 else 0x0008000
  | .io2 => if rw then 0x0090000 else 0x0010000
  | .unselected => if rw then 0x0080000 else 0x0000000

/-- A CPU-half word under the mask of its window. -/
theorem dispatchWord_and_cellMask (v : Variant) {S : BusCycleSample} (hvid : S.vid = false) :
    dispatchWord v S &&& cellMask S.win = v.tag ++ cellPattern S.win S.rw := by
  cases hwin : S.win with
  | romh =>
    have hromh := (win_eq_romh_iff S).mp hwin
    refine (dispatchWord_and v S 0xF 0 1 0 1 0 0 1 0 0 0).trans ?_
    simp only [hvid, hromh]
    cases S.rw <;> simp [cellPattern] <;> cases v <;> decide
  | roml =>
    obtain ⟨hromh, hroml⟩ := (win_eq_roml_iff S).mp hwin
    refine (dispatchWord_and v S 0xF 0 1 0 1 0 0 1 1 0 0).trans ?_
    simp only [hvid, hromh, hroml]
    cases S.rw <;> simp [cellPattern] <;> cases v <;> decide
  | io1 =>
    obtain ⟨hromh, hroml, hio1⟩ := (win_eq_io1_iff S).mp hwin
    refine (dispatchWord_and v S 0xF 0 1 0 1 0 1 1 1 0 0).trans ?_
    simp only [hvid, hromh, hroml, hio1]
    cases S.rw <;> simp [cellPattern] <;> cases v <;> decide
  | io2 =>
    obtain ⟨hromh, hroml, hio1, hio2⟩ := (win_eq_io2_iff S).mp hwin
    refine (dispatchWord_and v S 0xF 0 1 0 1 1 1 1 1 0 0).trans ?_
    simp only [hvid, hromh, hroml, hio1, hio2]
    cases S.rw <;> simp [cellPattern] <;> cases v <;> decide
  | unselected =>
    obtain ⟨hromh, hroml, hio1, hio2⟩ := (win_eq_unselected_iff S).mp hwin
    refine (dispatchWord_and v S 0xF 0 1 0 1 1 1 1 1 0 0).trans ?_
    simp only [hvid, hromh, hroml, hio1, hio2]
    cases S.rw <;> simp [cellPattern] <;> cases v <;> decide

/-- An EASYFLASH I/O1 write under the mask of its two rows, which address bit 1 tells apart (30_encoding R106). -/
theorem dispatchWord_and_easyflash_io1W {S : BusCycleSample} (hvid : S.vid = false) (hwin : S.win = .io1)
    (hrw : S.rw = false) :
    dispatchWord .easyflash S &&& 0xF00AE002 = if S.addrLo.getLsbD 1 then 0xA0008002 else 0xA0008000 := by
  obtain ⟨hromh, hroml, hio1⟩ := (win_eq_io1_iff S).mp hwin
  refine (dispatchWord_and .easyflash S 0xF 0 1 0 1 0 1 1 1 0 2).trans ?_
  simp only [hvid, hromh, hroml, hio1, hrw, and_bit1, show S.data &&& 0 = 0 from BitVec.and_zero]
  cases S.addrLo.getLsbD 1 <;> simp [Variant.tag]

/-- Every cell of the table of R107 that is no blank has its row; the EASYFLASH I/O1 write has two. -/
theorem cell_claimed (v : Variant) (w : Win) (rw : Bool) :
    (v = .easyflash ∧ w = .io1 ∧ rw = false) ∨ decodeVariant v (sampleOf w rw 0 0 0) = .ign ∨
      ∃ r ∈ opcodeTable, r.mask = cellMask w ∧ r.pattern = v.tag ++ cellPattern w rw := by
  cases v <;> cases w <;> cases rw <;> decide

/-- A CPU-half sample of a blank cell decodes to `IGN`. -/
theorem decodeSample_of_blank_cell {v : Variant} {S : BusCycleSample} (hvid : S.vid = false)
    (hcell : ¬(v = .easyflash ∧ S.win = .io1 ∧ S.rw = false))
    (hblank : decodeVariant v (sampleOf S.win S.rw 0 0 0) = .ign) : decodeSample v S = .ign := by
  apply eq_ign_of_mnemonic
  have hign : decodeSample v (sampleOf S.win S.rw 0 0 0) = .ign := hblank
  rw [← hign]
  refine decodeSample_mnemonic_congr hvid rfl (fun h => absurd h Bool.false_ne_true) fun _ =>
    ⟨rfl, (sampleOf_win ..).symm, fun hv hw hr => absurd ⟨hv, ?_, hr⟩ hcell⟩
  rwa [sampleOf_win] at hw

/-- A video-half sample matches one of the three video rows. -/
theorem video_row_claims (v : Variant) {S : BusCycleSample} (hvid : S.vid = true) :
    ∃ r ∈ opcodeTable, dispatchWord v S &&& r.mask = r.pattern := by
  cases hrw : S.rw with
  | false =>
    refine ⟨⟨"VID.IGN.W", 0x000A0000, 0x00020000⟩, by decide, (dispatchWord_and v S 0 0 1 0 1 0 0 0 0 0 0).trans ?_⟩
    simp [hvid, hrw]
  | true =>
    cases hromh : S.romh with
    | false =>
      refine ⟨⟨"VID.IGN.NR", 0x000A4000, 0x000A0000⟩, by decide,
        (dispatchWord_and v S 0 0 1 0 1 0 0 1 0 0 0).trans ?_⟩
      simp [hvid, hrw, hromh]
    | true =>
      refine ⟨⟨"VID.ROMH.R", 0x000A4000, 0x000A4000⟩, by decide,
        (dispatchWord_and v S 0 0 1 0 1 0 0 1 0 0 0).trans ?_⟩
      simp [hvid, hrw, hromh]

/-- A word is `IGN`, or a row claims it. -/
theorem decode_eq_ign_or_claimed (dw : DispatchWord) :
    decode dw = .ign ∨ ∃ r ∈ opcodeTable, dw &&& r.mask = r.pattern := by
  rw [← dispatchWord_surjective dw, decode_dispatchWord]
  generalize wordVariant dw = v
  generalize wordSample dw = S
  cases hvid : S.vid with
  | true => exact .inr (video_row_claims v hvid)
  | false =>
    by_cases hcell : v = .easyflash ∧ S.win = .io1 ∧ S.rw = false
    · obtain ⟨rfl, hwin, hrw⟩ := hcell
      have hrow := dispatchWord_and_easyflash_io1W hvid hwin hrw
      cases hbit : S.addrLo.getLsbD 1 with
      | true => exact .inr ⟨⟨"EF.IO1.W.CTRL", 0xF00AE002, 0xA0008002⟩, by decide, by rw [hrow, hbit, if_pos rfl]⟩
      | false =>
        exact .inr ⟨⟨"EF.IO1.W.BANK", 0xF00AE002, 0xA0008000⟩, by decide,
          by rw [hrow, hbit, if_neg Bool.false_ne_true]⟩
    · rcases cell_claimed v S.win S.rw with h | hblank | ⟨r, hr, hmask, hpattern⟩
      · exact absurd h hcell
      · exact .inl (decodeSample_of_blank_cell hvid hcell hblank)
      · exact .inr ⟨r, hr, by rw [hmask, hpattern, dispatchWord_and_cellMask v hvid]⟩

/-! ### The decoded operation -/

/-- Only EASYFLASH I/O1 writes decode to the two operations whose form has a condition, on the side their bit selects. -/
theorem decodeSample_wellFormed (v : Variant) (S : BusCycleSample) : (decodeSample v S).wellFormed = true := by
  unfold decodeSample
  split
  · repeat' split
    all_goals rfl
  · cases v with
    | easyflash =>
      simp only [decodeVariant]
      split
      case h_3 =>
        split
        next hbit => exact hbit
        next hbit => simpa [Instr.wellFormed] using hbit
      all_goals rfl
    | _ =>
      simp only [decodeVariant]
      split <;> rfl

/-- Every operand is the field of the sample that its format names. -/
theorem decodeSample_withOperands (v : Variant) (S : BusCycleSample) :
    withOperands S.off S.addrLo S.data (decodeSample v S) = decodeSample v S := by
  unfold decodeSample
  split
  · repeat' split
    all_goals rfl
  · cases v with
    | easyflash =>
      simp only [decodeVariant]
      split
      case h_3 => split <;> rfl
      all_goals rfl
    | _ =>
      simp only [decodeVariant]
      split <;> rfl

/-- A read operation has no data operand. -/
theorem decodeSample_read_congr (v : Variant) {S : BusCycleSample} (hrw : S.rw = true) (d : Byte) (b : Bool) :
    decodeSample v { S with data := d, ba := b } = decodeSample v S := by
  have hwin : BusCycleSample.win { S with data := d, ba := b } = S.win := rfl
  unfold decodeSample
  split
  · rfl
  · unfold decodeVariant
    rw [hwin]
    simp only [hrw]
    cases v <;> cases S.win <;> rfl

end Sys2Proof

namespace Sys2Proof.Proofs

open Sys2Proof.Claims

/-- Settles O1: the packing of a word is undone, and the canonical sample of an operation decodes to it. -/
theorem decodeEncodeAgree : Obligations.DecodeEncodeAgree := by
  intro i hi
  have hdecode : decode (encode i) = i := by
    rw [encode, decode_dispatchWord, decodeSample_sample i hi]
  refine ⟨hdecode, ?_⟩
  rw [decodeTableWord, BitVec.ofNat_toNat, BitVec.setWidth_eq, hdecode]

/-- Settles O2, from the sample a word packs. -/
theorem decodedOperationsAreWellFormed : Obligations.DecodedOperationsAreWellFormed :=
  fun dw => decodeSample_wellFormed (wordVariant dw) (wordSample dw)

/-- Settles O3: the rows are disjoint on the bits they share, each fixes the bits the decoder looks at, and every cell of the
decoder that is no blank has its row. -/
theorem decodeFollowsTheOpcodeTable : Obligations.DecodeFollowsTheOpcodeTable := by
  intro dw
  refine ⟨rows_exclusive dw, fun r hr h => decode_mnemonic_of_mem hr h, fun hnone => ?_⟩
  rcases decode_eq_ign_or_claimed dw with hign | ⟨r, hr, h⟩
  · exact hign
  · exact absurd h (hnone r hr)

/-- Settles O4: the operands are the fields of the sample, and these are the fields of the word. -/
theorem decodedOperandsAreTheWordFields : Obligations.DecodedOperandsAreTheWordFields := by
  intro dw
  rw [← wordSample_off, ← wordSample_addrLo, ← wordSample_data]
  exact (decodeSample_withOperands (wordVariant dw) (wordSample dw)).symm

/-- Settles O5: neither the row nor the operands of a read look at the two fields. -/
theorem decodeIgnoresDataAndBusAvailable : Obligations.DecodeIgnoresDataAndBusAvailable := by
  intro v S d b
  refine ⟨?_, fun hrw => decodeSample_read_congr v hrw d b⟩
  exact decodeSample_mnemonic_congr rfl rfl (fun _ _ => rfl) fun _ => ⟨rfl, rfl, fun _ _ _ => rfl⟩

/-- Settles O6, by evaluating the decoder on the ten words. -/
theorem knownWordsDecode : Obligations.KnownWordsDecode := by
  unfold Obligations.KnownWordsDecode
  decide

end Sys2Proof.Proofs
end

section
/-!
PROOF. What an operation can do to the stores (20_memory R60 to R63, 45_memory_mux_dma R331, 42_easyflash R228 to R230,
43_gmod2 R254 to R256), store by store, and the canonical form of the stores under every step (log 4 to 7).
-/

namespace Sys2Proof.Machine

open Sys2Proof.Claims

/-! ### ROM -/

/-- A flash write reaches the ROM in the program state, and with 0x30 in the last erase state (42_easyflash R228). -/
theorem flashWrite_rom_cases (w : RomWindow) (off : Offset) (d : Byte) (s : State) :
    (flashWrite w off d s).rom = s.rom ∨
      flashOf s w = .program ∧ (flashWrite w off d s).rom = (flashProgram s.reg.bank w off d s).rom ∨
      flashOf s w = .e2 ∧ d = 0x30 ∧ (flashWrite w off d s).rom = (sectorErase w s.reg.bank s).rom := by
  unfold flashWrite
  split
  case h_1 => split <;> simp
  case h_4 hf => exact .inr (.inl ⟨hf, setFlash_rom ..⟩)
  case h_7 hf =>
    split
    next hd => exact .inr (.inr ⟨hf, hd, setFlash_rom ..⟩)
    next => simp
  all_goals simp

/-- The operations that can reach the ROM: an EASYFLASH write to a ROM window with data, while CARTEN = 1. -/
theorem exec_rom_cases {i : Instr} {s t : State} (h : exec i s = .next t) :
    t.rom = s.rom ∨
      s.reg.carten = true ∧ ∃ w off d, i = flashInstr w off d ∧ hasWindow s.cfg w = true ∧ t = flashWrite w off d s := by
  cases i with
  | efRomlW off d =>
    cases h
    rcases flashWindowWrite_cases .l off d s with ⟨hen, hwin, heq⟩ | ⟨-, heq⟩
    · exact .inr ⟨hen, .l, off, d, rfl, hwin, heq⟩
    · exact .inl (by rw [heq])
  | efRomhW off d =>
    cases h
    rcases flashWindowWrite_cases .h off d s with ⟨hen, hwin, heq⟩ | ⟨-, heq⟩
    · exact .inr ⟨hen, .h, off, d, rfl, hwin, heq⟩
    · exact .inl (by rw [heq])
  | _ =>
    cases h
    left
    (repeat' split) <;> simp [romReadHiOrMirror]

/-! ### RAM -/

theorem memWrite_ram (a : Nat) (v : Byte) (s : State) :
    (memWrite .ram a v s).ram = Memory.write (fillOf .ram) a v s.ram := rfl

theorem ramWrite_ram_cases (a : Nat) (v : Byte) (s : State) :
    (ramWrite a v s).ram = s.ram ∨
      s.reg.carten = true ∧ s.reg.ramexp = true ∧ (ramWrite a v s).ram = Memory.write (fillOf .ram) a v s.ram := by
  unfold ramWrite
  split
  next h =>
    obtain ⟨hen, hexp⟩ := Bool.and_eq_true_iff.mp h
    exact .inr ⟨hen, hexp, rfl⟩
  next => exact .inl rfl

/-- The operations that can reach the RAM, and that they write one byte of it. -/
theorem exec_ram_cases {i : Instr} {s t : State} (h : exec i s = .next t) :
    t.ram = s.ram ∨
      ((∃ al d, i = .efIo2W al d) ∨
        s.reg.carten = true ∧ s.reg.ramexp = true ∧
          ((∃ off d, i = .arRomlW off d ∨ i = .arRomhW off d ∨ i = .ssRomlW off d) ∨ ∃ al d, i = .arIo2W al d)) ∧
        ∃ a v, t.ram = Memory.write (fillOf .ram) a v s.ram := by
  cases i with
  | efIo2W al d =>
    cases h
    exact .inr ⟨.inl ⟨al, d, rfl⟩, _, _, rfl⟩
  | arRomlW off d =>
    cases h
    exact (ramWrite_ram_cases _ d s).imp_right fun ⟨hen, hexp, hram⟩ =>
      ⟨.inr ⟨hen, hexp, .inl ⟨off, d, .inl rfl⟩⟩, _, _, hram⟩
  | ssRomlW off d =>
    cases h
    exact (ramWrite_ram_cases _ d s).imp_right fun ⟨hen, hexp, hram⟩ =>
      ⟨.inr ⟨hen, hexp, .inl ⟨off, d, .inr (.inr rfl)⟩⟩, _, _, hram⟩
  | arIo2W al d =>
    cases h
    exact (ramWrite_ram_cases _ d s).imp_right fun ⟨hen, hexp, hram⟩ =>
      ⟨.inr ⟨hen, hexp, .inr ⟨al, d, rfl⟩⟩, _, _, hram⟩
  | arRomhW off d =>
    cases h
    split
    next hram =>
      obtain ⟨hen, hatomic⟩ := Bool.and_eq_true_iff.mp hram
      obtain ⟨-, hexp, -⟩ := (atomicRam_iff s).mp hatomic
      exact .inr ⟨.inr ⟨hen, hexp, .inl ⟨off, d, .inr (.inl rfl)⟩⟩, _, _, rfl⟩
    next => exact .inl rfl
  | _ =>
    cases h
    left
    (repeat' split) <;> simp [romReadHiOrMirror]

/-! ### EEPROM -/

/-- A property of the EEPROM that a single write keeps. -/
def KeptByEepWrites (P : Memory → Prop) : Prop := ∀ m a v, P m → P (Memory.write (fillOf .eep) a v m)

section EepWrites

variable {P : Memory → Prop} {s : State}

theorem eepStoreByte_keeps (hP : KeptByEepWrites P) (i : Nat) (b : Byte) (h : P s.eep) : P (eepStoreByte i b s).eep := by
  rcases eepStoreByte_cases i b s with ⟨-, heq⟩ | ⟨-, heq⟩
  · rw [heq]
    exact h
  · rw [heq]
    exact hP _ _ _ h

theorem eepStoreWord_keeps (hP : KeptByEepWrites P) (a : Nat) (v : BitVec 16) (h : P s.eep) :
    P (eepStoreWord a v s).eep :=
  eepStoreByte_keeps hP _ _ (eepStoreByte_keeps hP _ _ h)

theorem eepStoreAll_eep_keeps (hP : KeptByEepWrites P) (v : BitVec 16) (h : P s.eep) : P (eepStoreAll v s).eep :=
  @eepStoreAll_keeps (fun t => P t.eep) v s h fun _ _ _ ht => eepStoreWord_keeps hP _ v ht

variable (hP : s.eepi.wen = true → KeptByEepWrites P) (h : P s.eep)
include hP h

/-- Only the commands that store look at the array, and only with the write-enable latch set (43_gmod2 R255). -/
theorem eepCommand_eep_keeps (op : BitVec 2) (a : BitVec 10) : P (eepCommand op a s).eep := by
  unfold eepCommand
  split
  case h_3 =>
    show P (State.eep (if _ then _ else _))
    split
    next hw => exact eepStoreWord_keeps (hP hw) _ _ h
    next => exact h
  case h_4 =>
    split
    case h_3 =>
      show P (State.eep (if _ then _ else _))
      split
      next hw => exact eepStoreAll_eep_keeps (hP hw) _ h
      next => exact h
    all_goals exact h
  all_goals exact h

theorem eepCommit_eep_keeps : P (eepCommit s).eep := by
  show P (State.eep (if _ then _ else _))
  split
  next hw =>
    split
    · exact eepStoreWord_keeps (hP hw) _ _ h
    · exact eepStoreAll_eep_keeps (hP hw) _ h
  next => exact h

theorem eepClock_eep_keeps (di : Bool) : P (eepClock di s).eep := by
  unfold eepClock
  split
  case h_1 => split <;> exact h
  case h_2 =>
    split
    · exact @eepCommand_eep_keeps P (eepTakeBit di s) hP h _ _
    · exact h
  case h_3 | h_4 =>
    split
    · exact @eepCommit_eep_keeps P (eepTakeBit di s) hP h
    · exact h
  case h_5 =>
    unfold eepShiftOut
    split <;> exact h
  case h_6 => exact h

end EepWrites

@[simp] theorem eepChipSelect_wen (cs : Bool) (s : State) : (eepChipSelect cs s).eepi.wen = s.eepi.wen := by
  unfold eepChipSelect
  repeat' split
  all_goals rfl

/-- A change of the lines writes the array byte by byte, if at all, and only with the write-enable latch set. -/
theorem eepLines_eep_keeps {P : Memory → Prop} {s : State} (hP : s.eepi.wen = true → KeptByEepWrites P) (h : P s.eep)
    (cs clk di : Bool) : P (eepLines cs clk di s).eep := by
  have hsel : P (eepLatchData cs di (eepChipSelect cs s)).eep := by simpa using h
  show P (eepEdge cs clk di (eepLatchData cs di (eepChipSelect cs s))).eep
  unfold eepEdge
  split
  · exact eepClock_eep_keeps (fun hw => hP (by simpa [eepLatchData] using hw)) hsel di
  · exact hsel

/-- The GMOD2 register before it drives the EEPROM lines: CTRL, BANK, CARTEN and the mapping (43_gmod2 R251). -/
def gmodRegister (d : Byte) (s : State) : State :=
  if d.getLsbD 6 then disable (selectBank (byteField d 0 6) (setCtrl d s))
  else enableWith (mapDefault s.cfg) (selectBank (byteField d 0 6) (setCtrl d s))

theorem exec_gmIo1W (al d : Byte) (s : State) :
    exec (.gmIo1W al d) s =
      .next (eepLines (d.getLsbD 6) (d.getLsbD 5) (d.getLsbD 4) (gmodRegister d s)) := rfl

@[simp] theorem gmodRegister_eepi (d : Byte) (s : State) : (gmodRegister d s).eepi = s.eepi := by
  unfold gmodRegister
  split <;> simp

@[simp] theorem gmodRegister_eep (d : Byte) (s : State) : (gmodRegister d s).eep = s.eep := by
  unfold gmodRegister
  split <;> simp

/-- The one operation that can reach the EEPROM array. -/
theorem exec_eep_cases {i : Instr} {s t : State} (h : exec i s = .next t) : t.eep = s.eep ∨ ∃ al d, i = .gmIo1W al d := by
  cases i with
  | gmIo1W al d => exact .inr ⟨al, d, rfl⟩
  | _ =>
    cases h
    left
    (repeat' split) <;> simp [romReadHiOrMirror]

/-- An operation writes the EEPROM byte by byte, if at all, and only with the write-enable latch set. -/
theorem exec_eep_keeps {P : Memory → Prop} {i : Instr} {s t : State} (hP : s.eepi.wen = true → KeptByEepWrites P)
    (h0 : P s.eep) (h : exec i s = .next t) : P t.eep := by
  rcases exec_eep_cases h with heep | ⟨al, d, rfl⟩
  · rwa [heep]
  · rw [exec_gmIo1W] at h
    cases h
    exact eepLines_eep_keeps (by rwa [gmodRegister_eepi]) (by rwa [gmodRegister_eep]) _ _ _

/-! ### The canonical form -/

theorem Memory.wf_eraseBanks (w : RomWindow) (banks : List Nat) {m : Memory} (h : Memory.wf (fillOf .rom) m) :
    Memory.wf (fillOf .rom) (banks.foldl (eraseBank w) m) := by
  induction banks generalizing m with
  | nil => exact h
  | cons b banks ih => exact ih (Memory.wf_fillRange _ _ _ h)

theorem exec_keeps_canonical {i : Instr} {s t : State} (hs : StoresCanonical s) (h : exec i s = .next t) :
    StoresCanonical t where
  rom := by
    rcases exec_rom_cases h with hrom | ⟨-, w, off, d, -, -, rfl⟩
    · rw [hrom]
      exact hs.rom
    · rcases flashWrite_rom_cases w off d s with hrom | ⟨-, hrom⟩ | ⟨-, -, hrom⟩
      · rw [hrom]
        exact hs.rom
      · rw [hrom]
        exact Memory.wf_write _ _ hs.rom
      · rw [hrom]
        exact Memory.wf_eraseBanks w _ hs.rom
  ram := by
    rcases exec_ram_cases h with hram | ⟨-, a, v, hram⟩
    · rw [hram]
      exact hs.ram
    · rw [hram]
      exact Memory.wf_write a v hs.ram
  eep := exec_eep_keeps (fun _ _ a v hm => Memory.wf_write a v hm) hs.eep h
  shadow := by
    obtain ⟨-, -, -, -, -, -, -, hshadow, -⟩ := exec_keeps h
    rw [hshadow]
    exact hs.shadow

theorem recordShadow_keeps_canonical {s : State} (hs : StoresCanonical s) (S : BusCycleSample) :
    StoresCanonical (recordShadow S s) := by
  rcases recordShadow_cases S s with heq | ⟨-, -, io2, -, heq⟩
  · rwa [heq]
  · rw [heq]
    exact ⟨hs.rom, hs.ram, hs.eep, Memory.wf_write _ _ hs.shadow⟩

/-- The stages after the operation write no store. -/
theorem finishInvocation_keeps_canonical {t : State} (ht : StoresCanonical t) (s : State) (env : Env) :
    StoresCanonical (finishInvocation s env t) := by
  unfold finishInvocation
  exact ht.congr

theorem invocation_keeps_canonical {s t : State} {env : Env} (hs : StoresCanonical s)
    (h : invocation env s = .next t) : StoresCanonical t := by
  obtain ⟨u, hexec⟩ := exec_completes (operationOf s env) (beforeOperation s env)
  rw [invocation_of_exec hexec] at h
  cases h
  have hbefore : StoresCanonical (beginInvocation s) := hs.congr
  exact finishInvocation_keeps_canonical (exec_keeps_canonical (recordShadow_keeps_canonical hbefore _) hexec) s env

theorem endSession_canonical (err : Option LoadError) (s : State) : StoresCanonical (endSession err s) :=
  ⟨Memory.wf_nil _, Memory.wf_nil _, Memory.wf_nil _, Memory.wf_nil _⟩

theorem startSession_canonical (cfg : Cfg) (rom eep : List Host.Cell) (s : State) :
    StoresCanonical (startSession cfg rom eep s) :=
  ⟨Memory.wf_load _ _ _, Memory.wf_nil _, Memory.wf_load _ _ _, Memory.wf_nil _⟩

/-- Activation leaves no session, or starts one of a configuration it accepts (70_reset_and_hazards R410). -/
theorem activate_cases (r : LoadResult) (s : State) :
    (∃ k, activate r s = endSession (some k) s) ∨
      ∃ cfg rom eep, r = .ok cfg rom eep ∧ activationError cfg = none ∧ activate r s = startSession cfg rom eep s := by
  unfold activate
  split
  next k => exact .inl ⟨k, rfl⟩
  next cfg rom eep =>
    split
    next k hk => exact .inl ⟨k, rfl⟩
    next hnone => exact .inr ⟨cfg, rom, eep, rfl, hnone, rfl⟩

/-- What a step can be: idle, the end or the start of a session, an interrupt without a session, or an invocation. -/
theorem step_cases {s t : State} (h : step s = .next t) :
    s.inputs = [] ∧ t = s ∨
      (∃ err, t = endSession err { s with inputs := s.inputs.tail }) ∨
      (∃ cfg rom eep, activationError cfg = none ∧ t = startSession cfg rom eep { s with inputs := s.inputs.tail }) ∨
      s.active = false ∧ t = { s with inputs := s.inputs.tail } ∨
      ∃ env, Cycle s env t ∧ invocation env { s with inputs := s.inputs.tail } = .next t := by
  have hstep := h
  cases hin : s.inputs with
  | nil =>
    rw [step_of_nil hin] at h
    cases h
    exact .inl ⟨rfl, rfl⟩
  | cons i rest =>
    rw [step_of_cons hin] at h
    refine .inr ?_
    cases i with
    | clkIrq env =>
      rw [receive_clkIrq] at h
      by_cases ha : s.active = true
      · rw [if_pos ha] at h
        exact .inr (.inr (.inr ⟨env, ⟨ha, by rw [hin, List.head?_cons], hstep⟩, h⟩))
      · rw [if_neg ha] at h
        cases h
        exact .inr (.inr (.inl ⟨Bool.eq_false_iff.mpr ha, rfl⟩))
    | activate r =>
      cases h
      rcases activate_cases r { s with inputs := rest } with ⟨k, heq⟩ | ⟨cfg, rom, eep, -, hok, heq⟩
      · exact .inl ⟨some k, heq⟩
      · exact .inr (.inl ⟨cfg, rom, eep, hok, heq⟩)
    | deactivate =>
      cases h
      exact .inl ⟨none, rfl⟩

end Sys2Proof.Machine

namespace Sys2Proof.Proofs

open Sys2Proof.Machine

/-- Settles O27: by what a step can be, and for an invocation by what each of its stages writes. -/
theorem everyStepKeepsStoresCanonical : Obligations.EveryStepKeepsStoresCanonical := by
  intro s t hs h
  have hrest : StoresCanonical { s with inputs := s.inputs.tail } := hs.congr
  rcases step_cases h with
    ⟨-, rfl⟩ | ⟨err, rfl⟩ | ⟨cfg, rom, eep, -, rfl⟩ | ⟨-, rfl⟩ | ⟨env, -, hinv⟩
  · exact hs
  · exact endSession_canonical err _
  · exact startSession_canonical cfg rom eep _
  · exact hrest
  · exact invocation_keeps_canonical hrest hinv

end Sys2Proof.Proofs
end

section
/-!
PROOF. Bank switches and the stall controller (40_cycle R148, 45_memory_mux_dma R335 to R337): what a switch changes, that
every operation changes the controller as some switch does, the controller's invariant, and its two timelines.
-/

namespace Sys2Proof.Machine

open Sys2Proof.Claims

/-! ### A bank switch -/

@[simp] theorem setBank_self (s : State) : setBank s.reg.bank s = s := if_pos rfl

theorem setBank_of_ne {nb : Byte} {s : State} (h : nb ≠ s.reg.bank) :
    setBank nb s = dmaRequest nb { s with reg := { s.reg with bank := nb } } := if_neg h

theorem setBank_inCache {nb : Byte} {s : State} (h : nb ≠ s.reg.bank) (hfits : s.cfg.fitsInCache = true) :
    setBank nb s = { s with reg := { s.reg with bank := nb } } := by
  rw [setBank_of_ne h]
  exact if_pos hfits

/-- A switch during a stall: the release counts again, for the new bank, which is prefetched at once. -/
theorem setBank_duringStall {nb : Byte} {s : State} (h : nb ≠ s.reg.bank) (hfits : s.cfg.fitsInCache = false)
    (hrel : s.dma.release ≠ none) :
    setBank nb s =
      { s with
        reg := { s.reg with bank := nb }
        dma := { pending := s.dma.pending, release := some s.cfg.dmaReleaseCount, bank := nb }
        events := s.events ++ [.prefetch nb]
        resident := [nb] } := by
  rw [setBank_of_ne h]
  rcases dmaRequest_cases nb { s with reg := { s.reg with bank := nb } } with ⟨hf, -⟩ | ⟨-, -, heq⟩ | ⟨-, hr, -⟩
  · exact absurd (hfits.symm.trans hf) Bool.false_ne_true
  · exact heq
  · exact absurd hr hrel

/-- A switch with no stall running: the trigger delay starts for the new bank. -/
theorem setBank_startsDelay {nb : Byte} {s : State} (h : nb ≠ s.reg.bank) (hfits : s.cfg.fitsInCache = false)
    (hrel : s.dma.release = none) :
    setBank nb s =
      { s with
        reg := { s.reg with bank := nb }
        dma := { pending := some s.cfg.dmaTriggerDelay, release := none, bank := nb } } := by
  rw [setBank_of_ne h]
  rcases dmaRequest_cases nb { s with reg := { s.reg with bank := nb } } with ⟨hf, -⟩ | ⟨-, hr, -⟩ | ⟨-, -, heq⟩
  · exact absurd (hfits.symm.trans hf) Bool.false_ne_true
  · exact absurd hrel hr
  · rw [heq]
    simp [hrel]

/-- The four things `SetBank` can be. -/
theorem setBank_cases (nb : Byte) (s : State) :
    nb = s.reg.bank ∧ setBank nb s = s ∨
      nb ≠ s.reg.bank ∧
        (s.cfg.fitsInCache = true ∧ setBank nb s = { s with reg := { s.reg with bank := nb } } ∨
          s.cfg.fitsInCache = false ∧ s.dma.release ≠ none ∧
            setBank nb s =
              { s with
                reg := { s.reg with bank := nb }
                dma := { pending := s.dma.pending, release := some s.cfg.dmaReleaseCount, bank := nb }
                events := s.events ++ [.prefetch nb]
                resident := [nb] } ∨
          s.cfg.fitsInCache = false ∧ s.dma.release = none ∧
            setBank nb s =
              { s with
                reg := { s.reg with bank := nb }
                dma := { pending := some s.cfg.dmaTriggerDelay, release := none, bank := nb } }) := by
  by_cases hnb : nb = s.reg.bank
  · subst hnb
    exact .inl ⟨rfl, setBank_self s⟩
  · refine .inr ⟨hnb, ?_⟩
    cases hfits : s.cfg.fitsInCache with
    | true => exact .inl ⟨rfl, setBank_inCache hnb hfits⟩
    | false =>
      by_cases hrel : s.dma.release = none
      · exact .inr (.inr ⟨rfl, hrel, setBank_startsDelay hnb hfits hrel⟩)
      · exact .inr (.inl ⟨rfl, hrel, setBank_duringStall hnb hfits hrel⟩)

@[simp] theorem setBank_reg (nb : Byte) (s : State) : (setBank nb s).reg = { s.reg with bank := nb } := by
  rcases setBank_cases nb s with ⟨rfl, heq⟩ | ⟨-, ⟨-, heq⟩ | ⟨-, -, heq⟩ | ⟨-, -, heq⟩⟩ <;> rw [heq]

/-- A switch looks at BANK, the configuration and the controller alone. -/
theorem setBank_dma_congr {s t : State} (hcfg : t.cfg = s.cfg) (hbank : t.reg.bank = s.reg.bank) (hdma : t.dma = s.dma)
    (nb : Byte) : (setBank nb t).dma = (setBank nb s).dma := by
  unfold setBank dmaRequest
  simp only [hcfg, hbank, hdma]
  repeat' split
  all_goals simp [hdma]

theorem setBank_resident_congr {s t : State} (hcfg : t.cfg = s.cfg) (hbank : t.reg.bank = s.reg.bank)
    (hdma : t.dma = s.dma) (hres : t.resident = s.resident) (nb : Byte) :
    (setBank nb t).resident = (setBank nb s).resident := by
  unfold setBank dmaRequest
  simp only [hcfg, hbank, hdma]
  repeat' split
  all_goals simp [hres]

/-! ### What an operation does to the controller -/

@[simp] theorem romReadHiOrMirror_eq (b : Byte) (off : Offset) (s : State) :
    romReadHiOrMirror b off s = driveOption (hiOrMirrorByte b off s) s := rfl

/-- Between two states BANK, the controller and the resident set change as `SetBank` of one bank changes them; the stall
line stays. -/
structure SwitchesTo (nb : Byte) (s t : State) : Prop where
  bank : t.reg.bank = nb
  dma : t.dma = (setBank nb s).dma
  stallOut : t.stallOut = s.stallOut
  resident : t.resident = (setBank nb s).resident

theorem SwitchesTo.keep {s t : State} (hbank : t.reg.bank = s.reg.bank := by simp) (hdma : t.dma = s.dma := by simp)
    (hstall : t.stallOut = s.stallOut := by simp) (hres : t.resident = s.resident := by simp) :
    SwitchesTo s.reg.bank s t :=
  ⟨hbank, by rw [hdma, setBank_self], hstall, by rw [hres, setBank_self]⟩

theorem SwitchesTo.setBank (nb : Byte) (s : State) : SwitchesTo nb s (setBank nb s) :=
  ⟨by rw [setBank_reg], rfl, setBank_stallOut nb s, rfl⟩

theorem SwitchesTo.selectBank (b : Nat) (s : State) : SwitchesTo (reduceBank s.cfg b) s (selectBank b s) :=
  .setBank _ s

/-- An update before the switch that leaves BANK and the controller alone. -/
theorem SwitchesTo.after {nb : Byte} {s r t : State} (h : SwitchesTo nb r t) (hcfg : r.cfg = s.cfg := by simp)
    (hbank : r.reg.bank = s.reg.bank := by simp) (hdma : r.dma = s.dma := by simp)
    (hstall : r.stallOut = s.stallOut := by simp) (hres : r.resident = s.resident := by simp) : SwitchesTo nb s t :=
  ⟨h.bank, h.dma.trans (setBank_dma_congr hcfg hbank hdma nb), h.stallOut.trans hstall,
    h.resident.trans (setBank_resident_congr hcfg hbank hdma hres nb)⟩

/-- An update after the switch that leaves BANK and the controller alone. -/
theorem SwitchesTo.before {nb : Byte} {s t u : State} (h : SwitchesTo nb s t)
    (hbank : u.reg.bank = t.reg.bank := by simp) (hdma : u.dma = t.dma := by simp)
    (hstall : u.stallOut = t.stallOut := by simp) (hres : u.resident = t.resident := by simp) : SwitchesTo nb s u :=
  ⟨hbank.trans h.bank, hdma.trans h.dma, hstall.trans h.stallOut, hres.trans h.resident⟩

theorem SwitchesTo.selectBank_setCtrl (b : Nat) (d : Byte) (s : State) :
    SwitchesTo (reduceBank s.cfg b) s (Machine.selectBank b (setCtrl d s)) :=
  (SwitchesTo.selectBank b (setCtrl d s)).after

/-- Every operation is a bank switch for the controller, the switch to the active bank included. -/
theorem exec_switches {i : Instr} {s t : State} (h : exec i s = .next t) : ∃ nb, SwitchesTo nb s t := by
  cases i with
  | gsIo1W | gsIo1R | diIo1R | efIo1WBank =>
    cases h
    exact ⟨_, .setBank _ s⟩
  | ocIo1W al d =>
    cases h
    exact ⟨_, .selectBank_setCtrl _ d s⟩
  | zxRomlR off =>
    cases h
    exact ⟨_, (SwitchesTo.selectBank _ (romRead 0 .l off s)).after⟩
  | mdIo1W al d =>
    cases h
    split
    · exact ⟨_, .keep⟩
    · exact ⟨_, (SwitchesTo.selectBank_setCtrl (byteField d 0 7) d s).before⟩
  | coIo1W al d =>
    cases h
    split <;> exact ⟨_, (SwitchesTo.selectBank_setCtrl (byteField d 0 2) d s).before⟩
  | prIo2W al d =>
    cases h
    split <;> exact ⟨_, (SwitchesTo.selectBank_setCtrl (byteField d 0 5) d s).before⟩
  | huIo1W al d =>
    cases h
    split
    · split <;> exact ⟨_, (SwitchesTo.selectBank_setCtrl (byteField d 0 3) d s).before⟩
    · exact ⟨_, .keep⟩
  | arIo1W al d =>
    cases h
    split
    · split <;> exact ⟨_, (SwitchesTo.selectBank_setCtrl (byteField d 3 2) d s).before⟩
    · exact ⟨_, .keep⟩
  | ssIo1W al d =>
    cases h
    split
    · split <;> exact ⟨_, (SwitchesTo.selectBank_setCtrl (ssBankField d) d s).before⟩
    · exact ⟨_, .keep⟩
  | gmIo1W al d =>
    cases h
    split <;> exact ⟨_, (SwitchesTo.selectBank_setCtrl (byteField d 0 6) d s).before⟩
  | _ =>
    -- no other operation selects a bank
    cases h
    (repeat' split) <;> exact ⟨_, .keep⟩

/-- The frozen mapping of a variant: nothing, or bank 0 with CTRL 0 and RAMEXP (44_freezer R285). -/
theorem mapFrozen_cases (s : State) :
    mapFrozen s = s ∨ ∃ b, mapFrozen s = setRamexp b (setCtrl 0 (setBank 0 s)) := by
  unfold mapFrozen
  split
  · exact .inr ⟨false, rfl⟩
  · exact .inr ⟨true, rfl⟩
  all_goals exact .inl rfl

theorem mapFrozen_switches (s : State) : ∃ nb, SwitchesTo nb s (mapFrozen s) := by
  rcases mapFrozen_cases s with heq | ⟨b, heq⟩
  · rw [heq]
    exact ⟨_, .keep rfl rfl rfl rfl⟩
  · rw [heq]
    exact ⟨0, (SwitchesTo.setBank 0 s).before⟩

theorem enterActive_switches (s : State) : ∃ nb, SwitchesTo nb s (enterActive s) := by
  obtain ⟨nb, h⟩ := mapFrozen_switches
    (enableWith modeUltimax { s with frz := { s.frz with fs := .active, nmiCnt := 0 }, nmiOut := false })
  exact ⟨nb, h.after⟩

/-- Freeze control switches the bank only where it enters the frozen state. -/
theorem freezeObserve_switches (rw : Bool) (s : State) : ∃ nb, SwitchesTo nb s (freezeObserve rw s) := by
  rcases freezeObserve_cases rw s with ⟨-, heq⟩ | ⟨-, -, ⟨-, heq⟩ | ⟨-, -, heq⟩ | ⟨-, -, heq⟩⟩ <;> rw [heq]
  · exact ⟨_, .keep rfl rfl rfl rfl⟩
  · exact ⟨_, .keep⟩
  · obtain ⟨nb, h⟩ := enterActive_switches { s with frz := { s.frz with wrCnt := 3 } }
    exact ⟨nb, h.after⟩
  · exact ⟨_, .keep⟩

/-! ### The invariant of the controller -/

theorem DmaSound.setBank {s : State} (h : DmaSound s) (nb : Byte) : DmaSound (setBank nb s) := by
  obtain ⟨hone, hstall, hcache, hpending, hrelease⟩ := h
  rcases setBank_cases nb s with ⟨-, heq⟩ | ⟨-, ⟨-, heq⟩ | ⟨hfits, hrel, heq⟩ | ⟨hfits, hrel, heq⟩⟩
  · rw [heq]
    exact ⟨hone, hstall, hcache, hpending, hrelease⟩
  · rw [heq]
    exact ⟨hone, hstall, hcache, hpending, hrelease⟩
  · rw [heq]
    exact ⟨.inl (hone.resolve_right hrel), hstall.trans (Option.isSome_iff_ne_none.mpr hrel),
      fun hf => absurd (hfits.symm.trans hf) Bool.false_ne_true, hpending, by simp⟩
  · rw [heq]
    exact ⟨.inr rfl, hstall.trans (by rw [hrel]), fun hf => absurd (hfits.symm.trans hf) Bool.false_ne_true, by simp,
      by simp⟩

theorem DmaSound.switches {s t : State} {nb : Byte} (h : DmaSound s) (hcfg : t.cfg = s.cfg)
    (ht : SwitchesTo nb s t) : DmaSound t :=
  (h.setBank nb).congr (by rw [hcfg, setBank_cfg]) ht.dma (by rw [ht.stallOut, setBank_stallOut])

theorem DmaSound.dmaTick {s : State} (h : DmaSound s) : DmaSound (dmaTick s) := by
  obtain ⟨hone, hstall, hcache, hpending, hrelease⟩ := h
  rcases dmaTick_cases s with
    ⟨hrel, heq⟩ | ⟨n, hrel, heq⟩ | ⟨hrel, hpend, heq⟩ | ⟨n, hrel, hpend, heq⟩ | ⟨-, -, heq⟩ <;> rw [heq]
  · exact ⟨.inr rfl, rfl, fun hf => ⟨(hcache hf).1, rfl⟩, hpending, by simp⟩
  · refine ⟨.inl (hone.resolve_right (by simp [hrel])), by simp [hstall, hrel], fun hf => ?_, hpending, ?_⟩
    · exact absurd (hcache hf).2 (by simp [hrel])
    · rintro m ⟨⟩
      exact Nat.le_of_succ_le (hrelease _ hrel)
  · refine ⟨.inl rfl, rfl, fun hf => ?_, by simp, by simp⟩
    exact absurd (hcache hf).1 (by simp [hpend])
  · refine ⟨.inr hrel, by simp [hstall, hrel], fun hf => ?_, ?_, hrelease⟩
    · exact absurd (hcache hf).1 (by simp [hpend])
    · rintro m ⟨⟩
      exact Nat.le_of_succ_le (hpending _ hpend)
  · exact ⟨hone, hstall, hcache, hpending, hrelease⟩

/-- A controller with no countdown running and the stall line off is sound. -/
theorem DmaSound.of_idle {s : State} (hpend : s.dma.pending = none) (hrel : s.dma.release = none)
    (hstall : s.stallOut = false) : DmaSound s :=
  ⟨.inl hpend, by rw [hstall, hrel]; rfl, fun _ => ⟨hpend, hrel⟩, by simp [hpend], by simp [hrel]⟩

@[simp] theorem reinit_dma (s : State) : (reinit s).dma = { pending := none, release := none, bank := 0 } := by
  unfold reinit
  split <;> rfl

@[simp] theorem reinit_stallOut (s : State) : (reinit s).stallOut = false := by
  unfold reinit
  split <;> rfl

theorem DmaSound.resetTick {s : State} (h : DmaSound s) (r : Bool) : DmaSound (resetTick r s) := by
  rcases resetTick_cases r s with ⟨-, -, heq⟩ | ⟨-, m, heq⟩ <;> rw [heq]
  · exact .of_idle (by simp) (by simp) (by simp)
  · exact h.congr

/-- The ticks between that of the controller and that of the reset monitor (40_cycle R152). -/
def middleTicks (env : Env) (s : State) : State := buttonTick env.buttonIn (nmiTick (capTick s))

theorem stageSeven_eq (env : Env) (s : State) :
    stageSeven env s = resetTick env.resetIn (middleTicks env (dmaTick s)) := rfl

theorem DmaSound.stageSeven {s : State} (h : DmaSound s) (env : Env) : DmaSound (stageSeven env s) := by
  have hmiddle : DmaSound (buttonTick env.buttonIn (nmiTick (capTick (Machine.dmaTick s)))) := h.dmaTick.congr
  exact hmiddle.resetTick env.resetIn

/-! ### The controller over a step -/

/-- In an invocation the controller sees two switches, one by the operation and one by freeze control, then the ticks. -/
theorem cycle_switches {s t : State} {env : Env} (h : Cycle s env t) :
    ∃ u v nb nb', u.cfg = s.cfg ∧ SwitchesTo nb s u ∧ v.cfg = s.cfg ∧ SwitchesTo nb' u v ∧ t = stageSeven env v := by
  obtain ⟨u, hexec, rfl⟩ := cycle_runs h
  obtain ⟨nb, hu⟩ := exec_switches hexec
  obtain ⟨hcfg, -⟩ := exec_keeps hexec
  have hcfg' : u.cfg = s.cfg := by simpa using hcfg
  split
  · exact ⟨u, u, nb, _, hcfg', hu.after, hcfg', .keep, rfl⟩
  · obtain ⟨nb', hv⟩ := freezeObserve_switches env.p1.rw u
    exact ⟨u, _, nb, nb', hcfg', hu.after, by simpa using hcfg', hv, rfl⟩

theorem DmaSound.step {s t : State} (hs : DmaSound s) (h : Machine.step s = .next t) : DmaSound t := by
  rcases step_cases h with ⟨-, rfl⟩ | ⟨err, rfl⟩ | ⟨cfg, rom, eep, -, rfl⟩ | ⟨-, rfl⟩ | ⟨env, hcycle, -⟩
  · exact hs
  · exact .of_idle rfl rfl rfl
  · exact .of_idle rfl rfl rfl
  · exact hs.congr
  · obtain ⟨u, v, nb, nb', hcu, hu, hcv, hv, rfl⟩ := cycle_switches hcycle
    have hsu : DmaSound u := hs.switches hcu hu
    exact DmaSound.stageSeven (hsu.switches (hcv.trans hcu.symm) hv) env

/-! ### Where the release countdown starts -/

/-- With no release running a switch starts none, and at most the trigger delay. -/
theorem SwitchesTo.dma_of_idle {s t : State} {nb : Byte} (h : SwitchesTo nb s t) (hrel : s.dma.release = none) :
    t.dma.release = none ∧ (t.dma.pending = s.dma.pending ∨ t.dma.pending = some s.cfg.dmaTriggerDelay) := by
  rw [h.dma]
  rcases setBank_cases nb s with ⟨-, heq⟩ | ⟨-, ⟨-, heq⟩ | ⟨-, hne, -⟩ | ⟨-, -, heq⟩⟩
  · rw [heq]
    exact ⟨hrel, .inl rfl⟩
  · rw [heq]
    exact ⟨hrel, .inl rfl⟩
  · exact absurd hrel hne
  · rw [heq]
    exact ⟨rfl, .inr rfl⟩

/-- The tick starts the release with the trigger delay at 0 only: it asserts the stall line and prefetches the bank. -/
theorem dmaTick_of_idle {s : State} (hrel : s.dma.release = none) :
    (dmaTick s).dma.release = none ∨
      s.dma.pending = some 0 ∧
        dmaTick s =
          { s with
            stallOut := true
            dma := { s.dma with pending := none, release := some s.cfg.dmaReleaseCount }
            events := s.events ++ [.prefetch s.dma.bank]
            resident := [s.dma.bank] } := by
  rcases dmaTick_cases s with ⟨h, -⟩ | ⟨n, h, -⟩ | ⟨-, hpend, heq⟩ | ⟨n, -, -, heq⟩ | ⟨-, -, heq⟩
  · rw [hrel] at h
    cases h
  · rw [hrel] at h
    cases h
  · exact .inr ⟨hpend, heq⟩
  · rw [heq]
    exact .inl hrel
  · rw [heq]
    exact .inl hrel

/-- After the controller's own tick the invocation leaves the controller and its outputs alone, or resets it. -/
theorem stageSeven_dma (env : Env) (s : State) :
    (stageSeven env s).dma.release = none ∨
      (stageSeven env s).dma = (dmaTick s).dma ∧ (stageSeven env s).stallOut = (dmaTick s).stallOut ∧
        (stageSeven env s).events = (dmaTick s).events ∧ (stageSeven env s).resident = (dmaTick s).resident := by
  rw [stageSeven_eq]
  rcases resetTick_cases env.resetIn (middleTicks env (dmaTick s)) with ⟨-, -, heq⟩ | ⟨-, m, heq⟩ <;> rw [heq]
  · exact .inl (by simp)
  · exact .inr (by simp [middleTicks])

/-- What a step that starts the release countdown finds and leaves (45_memory_mux_dma R336, R337 (c)). -/
theorem step_starts_release {s t : State} (h : step s = .next t) (hrel : s.dma.release = none)
    (hstart : t.dma.release ≠ none) :
    (s.dma.pending = some 0 ∨ s.cfg.dmaTriggerDelay = 0) ∧
      t.dma.release = some s.cfg.dmaReleaseCount ∧ t.dma.pending = none ∧ t.stallOut = true ∧
      .prefetch t.dma.bank ∈ t.events ∧ t.resident = [t.dma.bank] := by
  rcases step_cases h with ⟨-, rfl⟩ | ⟨err, rfl⟩ | ⟨cfg, rom, eep, -, rfl⟩ | ⟨-, rfl⟩ | ⟨env, hcycle, -⟩
  · exact absurd hrel hstart
  · exact absurd rfl hstart
  · exact absurd rfl hstart
  · exact absurd hrel hstart
  · obtain ⟨u, v, nb, nb', hcu, hu, hcv, hv, rfl⟩ := cycle_switches hcycle
    obtain ⟨hurel, hupend⟩ := hu.dma_of_idle hrel
    obtain ⟨hvrel, hvpend⟩ := hv.dma_of_idle hurel
    rcases stageSeven_dma env v with hnone | ⟨hdma, hstall, hevents, hres⟩
    · exact absurd hnone hstart
    rw [hdma] at hstart
    rcases dmaTick_of_idle hvrel with hnone | ⟨hzero, heq⟩
    · exact absurd hnone hstart
    rw [heq] at hdma hstall hevents hres
    refine ⟨?_, by rw [hdma, hcv], by rw [hdma], hstall, by rw [hdma, hevents]; simp, by rw [hdma, hres]⟩
    rw [hcu] at hvpend
    rcases hvpend with hvu | hvd
    · rcases hupend with hus | hud
      · exact .inl (by rw [← hus, ← hvu, hzero])
      · exact .inr (Option.some.inj (by rw [← hud, ← hvu, hzero]))
    · exact .inr (Option.some.inj (by rw [← hvd, hzero]))

/-! ### The two timelines -/

theorem dmaTick_release_zero {s : State} (h : s.dma.release = some 0) :
    dmaTick s = { s with stallOut := false, dma := { s.dma with release := none } } := by
  simp only [dmaTick, h]

theorem dmaTick_release_succ {s : State} {n : Nat} (h : s.dma.release = some (n + 1)) :
    dmaTick s = { s with dma := { s.dma with release := some n } } := by
  simp only [dmaTick, h]

theorem dmaTick_pending_zero {s : State} (hrel : s.dma.release = none) (h : s.dma.pending = some 0) :
    dmaTick s =
      { s with
        stallOut := true
        dma := { pending := none, release := some s.cfg.dmaReleaseCount, bank := s.dma.bank }
        events := s.events ++ [.prefetch s.dma.bank]
        resident := [s.dma.bank] } := by
  simp only [dmaTick, hrel, h]
  rfl

theorem dmaTick_pending_succ {s : State} {n : Nat} (hrel : s.dma.release = none) (h : s.dma.pending = some (n + 1)) :
    dmaTick s = { s with dma := { s.dma with pending := some n } } := by
  simp only [dmaTick, hrel, h]

theorem dmaTick_idle {s : State} (hrel : s.dma.release = none) (h : s.dma.pending = none) : dmaTick s = s := by
  simp only [dmaTick, hrel, h]

/-- The trigger delay counts down, one tick at a time. -/
theorem dmaTick_iterate_pending {s : State} {d : Nat} {nb : Byte} (hs : s.dma = ⟨some d, none, nb⟩) {m : Nat}
    (hm : m ≤ d) : dmaTick^[m] s = { s with dma := ⟨some (d - m), none, nb⟩ } := by
  induction m with
  | zero => simp [← hs]
  | succ m ih =>
    have hsucc : d - m = d - (m + 1) + 1 := by omega
    rw [Function.iterate_succ_apply', ih (by omega), dmaTick_pending_succ rfl (congrArg some hsucc)]

theorem dmaTick_iterate_idle {s : State} (hrel : s.dma.release = none) (h : s.dma.pending = none) (m : Nat) :
    dmaTick^[m] s = s := by
  induction m with
  | zero => rfl
  | succ m ih => rw [Function.iterate_succ_apply', ih, dmaTick_idle hrel h]

/-- The release counts down, and the tick after 0 takes the stall line away. -/
theorem dmaTick_iterate_release {s : State} {r : Nat} {nb : Byte} (hs : s.dma = ⟨none, some r, nb⟩) (m : Nat) :
    dmaTick^[m] s =
      if m ≤ r then { s with dma := ⟨none, some (r - m), nb⟩ }
      else { s with stallOut := false, dma := ⟨none, none, nb⟩ } := by
  induction m with
  | zero => simp [← hs]
  | succ m ih =>
    rw [Function.iterate_succ_apply', ih]
    rcases Nat.lt_trichotomy m r with hlt | rfl | hgt
    · have hsucc : r - m = r - (m + 1) + 1 := by omega
      rw [if_pos (by omega), if_pos (by omega), dmaTick_release_succ (congrArg some hsucc)]
    · have hzero : m - m = 0 := Nat.sub_self m
      rw [if_pos (by omega), if_neg (by omega), dmaTick_release_zero (congrArg some hzero)]
    · rw [if_neg (by omega), if_neg (by omega), dmaTick_idle rfl rfl]

/-- A stall: the delay, the tick that asserts the line and prefetches, the release. -/
theorem dmaTick_iterate_stall {s : State} {d : Nat} {nb : Byte} (hs : s.dma = ⟨some d, none, nb⟩) (m : Nat) :
    dmaTick^[m] s =
      if m ≤ d then { s with dma := ⟨some (d - m), none, nb⟩ }
      else if m ≤ d + s.cfg.dmaReleaseCount + 1 then
        { s with
          stallOut := true
          dma := ⟨none, some (d + s.cfg.dmaReleaseCount + 1 - m), nb⟩
          events := s.events ++ [.prefetch nb]
          resident := [nb] }
      else
        { s with
          stallOut := false
          dma := ⟨none, none, nb⟩
          events := s.events ++ [.prefetch nb]
          resident := [nb] } := by
  split
  next hm => exact dmaTick_iterate_pending hs hm
  next hm =>
    have htrigger : dmaTick^[d + 1] s =
        { s with
          stallOut := true
          dma := ⟨none, some s.cfg.dmaReleaseCount, nb⟩
          events := s.events ++ [.prefetch nb]
          resident := [nb] } := by
      rw [Function.iterate_succ_apply', dmaTick_iterate_pending hs (Nat.le_refl d),
        dmaTick_pending_zero rfl (congrArg some (Nat.sub_self d))]
    obtain ⟨k, rfl⟩ : ∃ k, m = k + (d + 1) := ⟨m - (d + 1), by omega⟩
    rw [Function.iterate_add_apply, htrigger, dmaTick_iterate_release rfl]
    have hcount : d + s.cfg.dmaReleaseCount + 1 - (k + (d + 1)) = s.cfg.dmaReleaseCount - k := by omega
    rw [hcount]
    by_cases hk : k ≤ s.cfg.dmaReleaseCount
    · rw [if_pos hk, if_pos (by omega)]
    · rw [if_neg hk, if_neg (by omega)]

end Sys2Proof.Machine

namespace Sys2Proof.Proofs

open Sys2Proof.Machine Sys2Proof.Claims

/-- Settles O32: each stage keeps the invariant of the controller; a start of the release is traced to the tick. -/
theorem everyStepKeepsTheStallControllerSound : Obligations.EveryStepKeepsTheStallControllerSound := by
  refine ⟨fun s t hs h => hs.step h, fun s t h hrel hstart => step_starts_release h hrel hstart,
    fun s t i h hrel => ?_, fun s hrel => ⟨fun rw => ?_, fun hstart => ?_⟩⟩
  · obtain ⟨nb, ht⟩ := exec_switches h
    exact (ht.dma_of_idle hrel).1
  · obtain ⟨nb, ht⟩ := freezeObserve_switches rw s
    exact (ht.dma_of_idle hrel).1
  · rcases dmaTick_of_idle hrel with hnone | ⟨hzero, -⟩
    · exact absurd hnone hstart
    · exact hzero

/-- Settles O30: the four things `SetBank` can be. -/
theorem bankSwitchRequestsTheStall : Obligations.BankSwitchRequestsTheStall := by
  intro s nb
  refine ⟨fun h => by rw [h, setBank_self], fun h => ⟨fun hfits => setBank_inCache h hfits, fun hfits => ⟨fun hrel => ?_,
    fun hrel => setBank_startsDelay h hfits hrel⟩⟩⟩
  exact setBank_duringStall h hfits hrel

/-- Settles O31: each tick from the states of the controller, and the timelines by counting ticks from the switch. -/
theorem stallTimeline : Obligations.StallTimeline := by
  refine ⟨fun s n => ⟨dmaTick_release_zero, dmaTick_release_succ, fun hrel =>
    ⟨dmaTick_pending_zero hrel, dmaTick_pending_succ hrel, dmaTick_idle hrel⟩⟩, ?_⟩
  intro s nb m hfits hnb d r t waiting fetched
  refine ⟨fun hrel => ?started, fun hrel hpend => ?restarted⟩
  case started =>
    have ht : t =
        if m ≤ d then waiting
        else if m ≤ d + r + 1 then
          { fetched with stallOut := true, dma := { pending := none, release := some (d + r + 1 - m), bank := nb } }
        else { fetched with stallOut := false, dma := { pending := none, release := none, bank := nb } } := by
      show dmaTick^[m] (setBank nb s) = _
      rw [setBank_startsDelay hnb hfits hrel, dmaTick_iterate_stall rfl]
    refine ⟨ht, fun hoff => ?_⟩
    rw [ht]
    split
    next hm => simp [waiting, hoff]; omega
    next hm =>
      split
      next hm' => simp; omega
      next hm' => simp; omega
  case restarted =>
    show dmaTick^[m] (setBank nb s) = _
    rw [setBank_duringStall hnb hfits hrel, hpend, dmaTick_iterate_release rfl]

end Sys2Proof.Proofs
end

section
/-!
PROOF. The invariant of the machine (10_state sections 3 to 8): operations of the session's variant keep a live session
sound, so does every stage around them; activation, deactivation and the reset state have the invariant.
-/

namespace Sys2Proof.Machine

open Sys2Proof.Claims

/-! ### The operations a session can run -/

/-- An operation that a session of variant `v` can decode: one of its own rows, a video-half row, or `IGN`. -/
def RunsIn (v : Variant) : Instr → Prop
  | .vidRomhR _ | .vidIgnW | .vidIgnNr | .ign => True
  | i => i.sample.1 = v

theorem decodeSample_runsIn (v : Variant) (S : BusCycleSample) : RunsIn v (decodeSample v S) := by
  unfold decodeSample
  split
  · repeat' split
    all_goals trivial
  · cases v with
    | easyflash =>
      simp only [decodeVariant]
      split
      case h_3 => split <;> rfl
      all_goals simp [RunsIn, Instr.sample]
    | _ =>
      simp only [decodeVariant]
      split <;> simp [RunsIn, Instr.sample]

/-! ### The operations, one by one -/

theorem Live.romReadHiOrMirror {s : State} (h : Live s) (b : Byte) (off : Offset) :
    Live (romReadHiOrMirror b off s) :=
  h.driveOption _

theorem Live.setCtrl_selectBank {s : State} (h : Live s) (b : Nat) (d : Byte) (hctrl : writesCtrl s.cfg.variant = true)
    (hbank : switchesBank s.cfg.variant = true) : Live (Machine.selectBank b (Machine.setCtrl d s)) :=
  (h.setCtrl d hctrl).selectBank b hbank

theorem Live.ramWrite {s : State} (h : Live s) {a : Nat} (d : Byte) (ha : a < ramSize s.cfg) :
    Live (ramWrite a d s) := by
  unfold Machine.ramWrite
  split
  · exact h.withRam a d ha
  · exact h

theorem pageOffset_toNat_lt (page : Offset) (al : Byte) : (pageOffset page al).toNat < 8192 := (pageOffset page al).isLt

theorem Live.gmodRegister {s : State} (h : Live s) (d : Byte) (hv : s.cfg.variant = .gmod2) :
    Live (gmodRegister d s) := by
  have hsel := h.setCtrl_selectBank (byteField d 0 6) d (by rw [hv]; rfl) (by rw [hv]; rfl)
  unfold Machine.gmodRegister
  split
  · exact hsel.disable
  · exact hsel.enableWith _

@[simp] theorem gmodRegister_cfg (d : Byte) (s : State) : (Machine.gmodRegister d s).cfg = s.cfg := by
  unfold Machine.gmodRegister
  split <;> simp

/-- An operation of the session's variant keeps a live session sound. -/
theorem Live.exec {i : Instr} {s t : State} (h : Live s) (hi : RunsIn s.cfg.variant i)
    (hexec : exec i s = .next t) : Live t := by
  cases i with
  | fxRomlR | fxRomhR | mdRomlR | gsRomlR | ocRomlR | ocRomhR | coRomlR | coRomhR | huRomlR | prRomlR | sbRomlR
  | sbRomhR | diRomlR | zxRomhR | efRomlR | efRomhR | gmRomlR | ffRomlR =>
    cases hexec
    exact h.romRead _ _ _
  | ffRomhR | ssRomhR =>
    cases hexec
    exact h.romReadHiOrMirror _ _
  | arRomhR | vidRomhR =>
    cases hexec
    exact h.driveOption _
  | arRomlR | arIo2R | ssRomlR =>
    cases hexec
    exact h.ramOrRomRead _ _
  | efIo2R | gmIo1R =>
    cases hexec
    exact h.driveByte _
  | epIo2R | ssIo1R =>
    cases hexec
    split
    · exact h.driveByte _
    · exact h
  | epRomlR off =>
    cases hexec
    split
    · exact (h.romRead _ _ _).rearmCap
    · exact h.romRead _ _ _
  | epIo1R =>
    cases hexec
    exact (h.enableWith _).rearmCap
  | sbIo1W | sbIo1R =>
    cases hexec
    exact h.setMap _
  | ffIo1R =>
    cases hexec
    exact h.enableWith _
  | ffIo2R =>
    cases hexec
    exact h.disable
  | vidIgnW | vidIgnNr | ign =>
    cases hexec
    exact h
  | gsIo1W | diIo1R | efIo1WBank =>
    cases hexec
    exact h.selectBank _ (by rw [← hi]; rfl)
  | gsIo1R =>
    cases hexec
    exact h.setBank 0 (accepted_pos h.banks.accepted) (.inr rfl)
  | zxRomlR =>
    cases hexec
    exact (h.romRead _ _ _).selectBank _ (by rw [romRead_cfg, ← hi]; rfl)
  | ocIo1W al d =>
    cases hexec
    exact h.setCtrl_selectBank _ d (by rw [← hi]; rfl) (by rw [← hi]; rfl)
  | mdIo1W al d =>
    cases hexec
    split
    · exact (h.setCtrl d (by rw [← hi]; rfl)).disable
    · exact (h.setCtrl_selectBank _ d (by rw [← hi]; rfl) (by rw [← hi]; rfl)).enableWith _
  | coIo1W al d =>
    cases hexec
    have hsel := h.setCtrl_selectBank (byteField d 0 2) d (by rw [← hi]; rfl) (by rw [← hi]; rfl)
    split
    · exact hsel.disable
    · exact hsel.enableWith _
  | prIo2W al d =>
    cases hexec
    have hsel := h.setCtrl_selectBank (byteField d 0 5) d (by rw [← hi]; rfl) (by rw [← hi]; rfl)
    split
    · exact hsel.disable
    · exact hsel.enableWith _
  | huIo1W al d =>
    cases hexec
    have hsel := h.setCtrl_selectBank (byteField d 0 3) d (by rw [← hi]; rfl) (by rw [← hi]; rfl)
    split
    · split
      · exact hsel.disable
      · exact hsel
    · exact h
  | arIo1W al d =>
    cases hexec
    have hsel := h.setCtrl_selectBank (byteField d 3 2) d (by rw [← hi]; rfl) (by rw [← hi]; rfl)
    have hexp := hsel.setRamexp (d.getLsbD 5) (.inl (by rw [selectBank_cfg, setCtrl_cfg]; exact hi.symm))
    split
    · split
      · exact hexp.disable
      · exact hexp.setMap _
    · exact h
  | ssIo1W al d =>
    cases hexec
    have hsel := h.setCtrl_selectBank (ssBankField d) d (by rw [← hi]; rfl) (by rw [← hi]; rfl)
    have hexp := hsel.setRamexp (!d.getLsbD 1) (.inr (by rw [selectBank_cfg, setCtrl_cfg]; exact hi.symm))
    split
    · split
      · exact hexp.disable
      · exact hexp.setMap _
    · exact h
  | efIo1WCtrl al d =>
    cases hexec
    exact (h.setCtrl d (by rw [← hi]; rfl)).setMap _
  | efIo2W al d =>
    cases hexec
    exact h.withRam _ d (by rw [ramSize_easyflash hi.symm]; exact al.isLt)
  | efRomlW off d | efRomhW off d =>
    cases hexec
    exact h.flashWindowWrite _ off d hi.symm
  | arRomlW off d =>
    cases hexec
    exact h.ramWrite d (by rw [ramSize_actionreplay hi.symm]; exact off.isLt)
  | arRomhW off d =>
    cases hexec
    split
    · exact h.withRam _ d (by rw [ramSize_actionreplay hi.symm]; exact off.isLt)
    · exact h
  | arIo2W al d =>
    cases hexec
    exact h.ramWrite d (by rw [ramSize_actionreplay hi.symm]; exact pageOffset_toNat_lt _ al)
  | ssRomlW off d =>
    cases hexec
    exact h.ramWrite d (ramIdx_lt_ramSize hi.symm off)
  | gmIo1W al d =>
    rw [exec_gmIo1W] at hexec
    cases hexec
    exact (h.gmodRegister d hi.symm).eepLines (by rw [gmodRegister_cfg]; exact hi.symm) _ _ _

/-! ### Every step -/

theorem Live.stageSeven {s : State} (h : Live s) (env : Env) : Live (stageSeven env s) := h.ticks env

theorem Live.cycle {s t : State} {env : Env} (h : Live s) (hcycle : Cycle s env t) : Live t := by
  obtain ⟨u, hexec, rfl⟩ := cycle_runs hcycle
  have hbegin : Live (Machine.beginInvocation { s with inputs := s.inputs.tail }) := h.congr
  have hbefore := hbegin.recordShadow (sampleTaken s.cfg env)
  have hu : Live u := hbefore.exec (by simpa using decodeSample_runsIn s.cfg.variant (sampleTaken s.cfg env)) hexec
  split
  · exact hu.stageSeven env
  · exact (hu.freezeObserve _).stageSeven env

/-- The invariant does not mention the inputs. -/
theorem Inv.withInputs {s : State} (h : Inv s) (is : List Input) : Inv { s with inputs := is } where
  canonical := h.canonical.congr
  inRange := h.inRange.congr
  banks := h.banks.congr
  dma := h.dma.congr
  residency := h.residency.congr
  reset := h.reset.congr
  freeze := h.freeze.congr
  cap := h.cap
  eeprom := h.eeprom.congr
  foreign := h.foreign.congr
  outputs := h.outputs

theorem accepted_iff_activationError (cfg : Cfg) : cfg.accepted ↔ activationError cfg = none := by
  unfold activationError Cfg.accepted
  cases cfg.hasL <;> cases cfg.hasH <;> simp <;> split <;> simp <;> omega

/-- A fresh session of an accepted configuration is sound. -/
theorem startSession_live {cfg : Cfg} (hcfg : cfg.accepted) (rom eep : List Host.Cell) (s : State) :
    Live (startSession cfg rom eep s) := by
  have hzero := accepted_pos hcfg
  refine .of rfl (startSession_canonical cfg rom eep s) ?range ⟨hcfg, hzero, hzero⟩ (.of_idle rfl rfl rfl) ?residency
    ?reset ?freeze (Nat.le_refl _) ?eeprom ?foreign
  case range =>
    exact ⟨Memory.load_inRange _ _ _, fun _ h => absurd h List.not_mem_nil, Memory.load_inRange _ _ _,
      fun _ h => absurd h List.not_mem_nil⟩
  case residency =>
    exact ⟨fun hf => if_pos hf, fun hf _ => if_neg (Bool.eq_false_iff.mp hf), fun h => h.elim (absurd rfl) (absurd rfl)⟩
  case reset => exact ⟨Nat.zero_le _, by simp [startSession], fun _ => rfl⟩
  case freeze => constructor <;> simp [startSession]
  case eeprom => exact ⟨fun _ => ⟨rfl, rfl, rfl, rfl, rfl⟩, by simp [startSession, EepromIface.initial],
      by simp [startSession, EepromIface.initial]⟩
  case foreign => constructor <;> simp [startSession, initialRamexp]

/-- The reset state is the fresh session of its own configuration (10_state R45). -/
theorem reset_eq_startSession : State.reset = { startSession Cfg.default [] [] State.reset with sessionNo := 0 } := by
  decide

theorem default_accepted : Cfg.default.accepted := by
  unfold Cfg.accepted
  decide

theorem reset_live : Live State.reset := by
  rw [reset_eq_startSession]
  exact (startSession_live default_accepted [] [] State.reset).congr

theorem endSession_inv (err : Option LoadError) (s : State) : Inv (endSession err s) where
  canonical := endSession_canonical err s
  inRange := reset_live.inRange.congr rfl rfl rfl rfl rfl
  banks := reset_live.banks.congr rfl rfl rfl
  dma := reset_live.dma.congr rfl rfl rfl
  residency := reset_live.residency.congr rfl rfl rfl rfl
  reset := reset_live.reset.congr rfl rfl
  freeze := reset_live.freeze.congr rfl rfl rfl
  cap := reset_live.cap
  eeprom := reset_live.eeprom.congr rfl
  foreign := reset_live.foreign.congr rfl rfl rfl rfl rfl rfl rfl rfl
  outputs := fun _ => ⟨rfl, rfl, rfl, rfl⟩

theorem Inv.step {s t : State} (hs : Inv s) (h : Machine.step s = .next t) : Inv t := by
  rcases step_cases h with ⟨-, rfl⟩ | ⟨err, rfl⟩ | ⟨cfg, rom, eep, hok, rfl⟩ | ⟨-, rfl⟩ | ⟨env, hcycle, -⟩
  · exact hs
  · exact endSession_inv err _
  · exact (startSession_live ((accepted_iff_activationError cfg).mpr hok) rom eep _).toInv
  · exact hs.withInputs _
  · have hactive := hcycle.1
    exact (Live.cycle ⟨hs, hactive⟩ hcycle).toInv

end Sys2Proof.Machine

namespace Sys2Proof.Proofs

open Sys2Proof.Machine

/-- Settles O59: what a step can be, and that each of its forms keeps the invariant. -/
theorem everyStepKeepsTheInvariant : Obligations.EveryStepKeepsTheInvariant := fun _ _ hs h => hs.step h

/-- Settles O58: the reset state is a fresh session. -/
theorem invariantHoldsAtReset : Obligations.InvariantHoldsAtReset := reset_live.toInv

/-- Settles O57, with the state after reset itself in place of the session before. -/
theorem resetIsAFreshSession : Obligations.ResetIsAFreshSession := by
  have haccepted : activationError Cfg.default = none := by decide
  refine ⟨⟨State.reset, _, ?_, rfl, rfl⟩, default_accepted, ?prepared, ?timely⟩
  · exact reset_eq_startSession
  case prepared => exact ⟨⟨13, by decide, by decide⟩, ⟨13, by decide, by decide⟩, by decide, by decide, by decide⟩
  case timely => exact ⟨by decide, by decide, by decide, by decide⟩

end Sys2Proof.Proofs
end

section
/-!
PROOF. Freeze control (44_freezer R280 to R285): the entry into the frozen state, the button and NMI over time, and the
freeze machine over an invocation in which the reset does not fire.
-/

namespace Sys2Proof.Machine

open Sys2Proof.Claims

/-! ### The entry into the frozen state -/

/-- What every freezer does on entry, before its own mapping. -/
def frozenMapping (s : State) : State :=
  mapped true ⟨true, false⟩ { s with frz := { s.frz with fs := .active, nmiCnt := 0 }, nmiOut := false }

theorem enterActive_eq (s : State) : enterActive s = mapFrozen (frozenMapping s) := rfl

theorem mapFrozen_freezeframe {s : State} (h : s.cfg.variant = .freezeframe) : mapFrozen s = s := by
  simp only [mapFrozen, h]

theorem mapFrozen_actionreplay {s : State} (h : s.cfg.variant = .actionreplay) :
    mapFrozen s = ramexpWritten false (ctrlWritten 0 (setBank 0 s)) := by
  simp only [mapFrozen, h]
  rfl

theorem mapFrozen_supersnapshot5 {s : State} (h : s.cfg.variant = .supersnapshot5) :
    mapFrozen s = ramexpWritten true (ctrlWritten 0 (setBank 0 s)) := by
  simp only [mapFrozen, h]
  rfl

@[simp] theorem enterActive_frz (s : State) :
    (enterActive s).frz = { s.frz with fs := .active, nmiCnt := 0 } := by
  rw [enterActive_eq, mapFrozen_frz]
  rfl

@[simp] theorem enterActive_nmiOut (s : State) : (enterActive s).nmiOut = false := by
  rw [enterActive_eq, mapFrozen_nmiOut]
  rfl

@[simp] theorem enterActive_map (s : State) : (enterActive s).map = ⟨true, false⟩ := by
  rw [enterActive_eq, mapFrozen_map]
  rfl

@[simp] theorem mapFrozen_carten (s : State) : (mapFrozen s).reg.carten = s.reg.carten := by
  rcases mapFrozen_cases s with heq | ⟨b, heq⟩ <;> simp [heq]

@[simp] theorem enterActive_carten (s : State) : (enterActive s).reg.carten = true := by
  rw [enterActive_eq, mapFrozen_carten]
  rfl

/-- The registers of the frozen state where the variant has any (44_freezer R285). -/
theorem enterActive_registers {s : State} (hf : isFreezer s.cfg.variant = true) (hv : s.cfg.variant ≠ .freezeframe) :
    (enterActive s).reg.bank = 0 ∧ (enterActive s).reg.ctrl = 0 ∧
      (enterActive s).reg.ramexp = decide (s.cfg.variant = .supersnapshot5) := by
  rw [enterActive_eq]
  cases hvariant : s.cfg.variant with
  | actionreplay =>
    rw [@mapFrozen_actionreplay (frozenMapping s) hvariant]
    simp [ramexpWritten, ctrlWritten]
  | supersnapshot5 =>
    rw [@mapFrozen_supersnapshot5 (frozenMapping s) hvariant]
    simp [ramexpWritten, ctrlWritten]
  | freezeframe => exact absurd hvariant hv
  | _ =>
    rw [hvariant] at hf
    cases hf

/-! ### The button -/

theorem buttonEdge_of_not_idle {s : State} (h : s.frz.fs ≠ .idle) : buttonEdge s = s := if_neg h

theorem buttonEdge_of_idle {s : State} (h : s.frz.fs = .idle) :
    buttonEdge s =
      { s with
        frz := { fs := .armed, btnCnt := s.frz.btnCnt, nmiCnt := s.cfg.nmiHold, wrCnt := 0 }
        nmiOut := true } := if_pos h

theorem buttonEdge_cases (s : State) :
    s.frz.fs = .idle ∧ (buttonEdge s).frz.fs = .armed ∨ s.frz.fs ≠ .idle ∧ buttonEdge s = s := by
  by_cases h : s.frz.fs = .idle
  · exact .inl ⟨h, by rw [buttonEdge_of_idle h]⟩
  · exact .inr ⟨h, buttonEdge_of_not_idle h⟩

theorem buttonTick_not_freezer {s : State} (h : isFreezer s.cfg.variant = false) (b : Bool) : buttonTick b s = s := by
  rcases buttonTick_cases b s with ⟨-, heq⟩ | ⟨hf, -⟩
  · exact heq
  · exact absurd (h.symm.trans hf) Bool.false_ne_true

theorem buttonTick_released {s : State} (h : isFreezer s.cfg.variant = true) :
    buttonTick false s = { s with frz := { s.frz with btnCnt := 0 } } := by
  unfold buttonTick
  rw [if_pos h]
  rfl

theorem buttonTick_counts {s : State} (h : isFreezer s.cfg.variant = true)
    (hc : s.frz.btnCnt + 1 < s.cfg.buttonDebounceN) :
    buttonTick true s = { s with frz := { s.frz with btnCnt := s.frz.btnCnt + 1 } } := by
  unfold buttonTick
  rw [if_pos h, if_pos rfl, if_pos (by omega), if_neg (by omega)]

theorem buttonTick_edge {s : State} (h : isFreezer s.cfg.variant = true)
    (hc : s.frz.btnCnt + 1 = s.cfg.buttonDebounceN) :
    buttonTick true s = buttonEdge { s with frz := { s.frz with btnCnt := s.frz.btnCnt + 1 } } := by
  unfold buttonTick
  rw [if_pos h, if_pos rfl, if_pos (by omega), if_pos hc]

theorem buttonTick_saturated {s : State} (hc : s.cfg.buttonDebounceN ≤ s.frz.btnCnt) : buttonTick true s = s := by
  unfold buttonTick
  simp only [if_true, if_neg (Nat.not_lt.mpr hc), ite_self]

/-- The state a button leaves that has reached its threshold: armed if it was idle. -/
def pressedThrough (s : State) : State :=
  if s.frz.fs = .idle then
    { s with
      frz := { fs := .armed, btnCnt := s.cfg.buttonDebounceN, nmiCnt := s.cfg.nmiHold, wrCnt := 0 }
      nmiOut := true }
  else { s with frz := { s.frz with btnCnt := s.cfg.buttonDebounceN } }

theorem buttonTick_pressedThrough (s : State) : buttonTick true (pressedThrough s) = pressedThrough s := by
  apply buttonTick_saturated
  unfold pressedThrough
  split <;> exact Nat.le_refl _

/-- A button held from below its threshold counts up to it, gives the edge there, and then nothing more. -/
theorem buttonTick_iterate {s : State} (hf : isFreezer s.cfg.variant = true)
    (hc : s.frz.btnCnt < s.cfg.buttonDebounceN) (m : Nat) :
    (buttonTick true)^[m] s =
      if s.frz.btnCnt + m < s.cfg.buttonDebounceN then { s with frz := { s.frz with btnCnt := s.frz.btnCnt + m } }
      else pressedThrough s := by
  induction m with
  | zero => rw [if_pos (by omega)]; rfl
  | succ m ih =>
    rw [Function.iterate_succ_apply', ih]
    rcases Nat.lt_trichotomy (s.frz.btnCnt + m + 1) s.cfg.buttonDebounceN with hlt | heq | hgt
    · rw [if_pos (by omega), if_pos (by omega)]
      exact buttonTick_counts hf hlt
    · rw [if_pos (by omega), if_neg (by omega)]
      rw [buttonTick_edge ?freezer ?count]
      case freezer => exact hf
      case count => exact heq
      unfold buttonEdge pressedThrough
      simp only [heq]
    · rw [if_neg (by omega), if_neg (by omega), buttonTick_pressedThrough]

/-! ### The NMI line -/

theorem nmiTick_expires {s : State} (hf : isFreezer s.cfg.variant = true) (hn : s.nmiOut = true)
    (hc : s.frz.nmiCnt = 0) : nmiTick s = { s with nmiOut := false } := by
  unfold nmiTick
  rw [if_pos (by simp [hf, hn]), if_pos hc]

theorem nmiTick_counts {s : State} (hf : isFreezer s.cfg.variant = true) (hn : s.nmiOut = true)
    (hc : s.frz.nmiCnt ≠ 0) : nmiTick s = { s with frz := { s.frz with nmiCnt := s.frz.nmiCnt - 1 } } := by
  unfold nmiTick
  rw [if_pos (by simp [hf, hn]), if_neg hc]

theorem nmiTick_off {s : State} (hn : s.nmiOut = false) : nmiTick s = s := by
  unfold nmiTick
  rw [if_neg (by simp [hn])]

/-- An asserted NMI counts its hold down to 0 and is taken away by the tick after. -/
theorem nmiTick_iterate {s : State} (hf : isFreezer s.cfg.variant = true) (hn : s.nmiOut = true) (m : Nat) :
    nmiTick^[m] s =
      { s with nmiOut := decide (m ≤ s.frz.nmiCnt), frz := { s.frz with nmiCnt := s.frz.nmiCnt - m } } := by
  induction m with
  | zero => simp [← hn]
  | succ m ih =>
    rw [Function.iterate_succ_apply', ih]
    rcases Nat.lt_trichotomy m s.frz.nmiCnt with hlt | heq | hgt
    · have hne : s.frz.nmiCnt - m ≠ 0 := by omega
      have hsub : s.frz.nmiCnt - m - 1 = s.frz.nmiCnt - (m + 1) := by omega
      rw [nmiTick_counts ?freezer ?asserted ?count]
      case freezer => exact hf
      case asserted => exact decide_eq_true hlt.le
      case count => exact hne
      simp [hsub, hlt.le, Nat.succ_le_of_lt hlt]
    · have hzero : s.frz.nmiCnt - m = 0 := by omega
      rw [nmiTick_expires ?freezer ?asserted ?count]
      case freezer => exact hf
      case asserted => exact decide_eq_true heq.le
      case count => exact hzero
      simp [heq]
    · have hsub : s.frz.nmiCnt - m = s.frz.nmiCnt - (m + 1) := by omega
      refine (nmiTick_off (decide_eq_false (by omega))).trans ?_
      rw [hsub]
      simp [show ¬m ≤ s.frz.nmiCnt by omega, show ¬m + 1 ≤ s.frz.nmiCnt by omega]

/-! ### The freeze machine in the ticks -/

@[simp] theorem nmiTick_fs (s : State) : (nmiTick s).frz.fs = s.frz.fs := by
  rcases nmiTick_cases s with ⟨-, -, ⟨-, heq⟩ | ⟨-, heq⟩⟩ | ⟨-, heq⟩ <;> rw [heq]

@[simp] theorem nmiTick_wrCnt (s : State) : (nmiTick s).frz.wrCnt = s.frz.wrCnt := by
  rcases nmiTick_cases s with ⟨-, -, ⟨-, heq⟩ | ⟨-, heq⟩⟩ | ⟨-, heq⟩ <;> rw [heq]

@[simp] theorem nmiTick_btnCnt (s : State) : (nmiTick s).frz.btnCnt = s.frz.btnCnt := by
  rcases nmiTick_cases s with ⟨-, -, ⟨-, heq⟩ | ⟨-, heq⟩⟩ | ⟨-, heq⟩ <;> rw [heq]

/-- A button moves the freeze machine by its edge only, out of the idle state. -/
theorem buttonTick_freeze (b : Bool) (s : State) :
    (buttonTick b s).frz.fs = s.frz.fs ∧ (buttonTick b s).frz.wrCnt = s.frz.wrCnt ∧
        (buttonTick b s).nmiOut = s.nmiOut ∨
      s.frz.fs = .idle ∧ (buttonTick b s).frz.fs = .armed ∧ isFreezer s.cfg.variant = true ∧ b = true ∧
        s.frz.btnCnt + 1 = s.cfg.buttonDebounceN := by
  rcases buttonTick_cases b s with
    ⟨-, heq⟩ | ⟨hf, ⟨-, heq⟩ | ⟨hb, hc, heq⟩ | ⟨-, -, heq⟩ | ⟨-, -, heq⟩⟩
  · exact .inl (by rw [heq]; exact ⟨rfl, rfl, rfl⟩)
  · exact .inl (by rw [heq]; exact ⟨rfl, rfl, rfl⟩)
  · rw [heq]
    rcases buttonEdge_cases { s with frz := { s.frz with btnCnt := s.frz.btnCnt + 1 } } with
      ⟨hidle, harmed⟩ | ⟨-, hkeep⟩
    · exact .inr ⟨hidle, harmed, hf, hb, hc⟩
    · exact .inl (by rw [hkeep]; exact ⟨rfl, rfl, rfl⟩)
  · exact .inl (by rw [heq]; exact ⟨rfl, rfl, rfl⟩)
  · exact .inl (by rw [heq]; exact ⟨rfl, rfl, rfl⟩)

/-- The ticks of an invocation before that of the reset monitor. -/
def earlyTicks (env : Env) (s : State) : State := middleTicks env (dmaTick s)

theorem earlyTicks_freeze (env : Env) (s : State) :
    (earlyTicks env s).frz.fs = s.frz.fs ∧ (earlyTicks env s).frz.wrCnt = s.frz.wrCnt ∨
      s.frz.fs = .idle ∧ (earlyTicks env s).frz.fs = .armed ∧ isFreezer s.cfg.variant = true ∧ env.buttonIn = true ∧
        s.frz.btnCnt + 1 = s.cfg.buttonDebounceN := by
  have h := buttonTick_freeze env.buttonIn (nmiTick (capTick (dmaTick s)))
  simp only [nmiTick_fs, nmiTick_wrCnt, nmiTick_btnCnt, nmiTick_cfg, capTick_frz, capTick_cfg, dmaTick_frz,
    dmaTick_cfg] at h
  exact h.imp_left fun ⟨hfs, hwr, _⟩ => ⟨hfs, hwr⟩

theorem earlyTicks_of_not_idle (env : Env) {s : State} (h : s.frz.fs ≠ .idle) :
    (earlyTicks env s).frz.fs = s.frz.fs ∧ (earlyTicks env s).frz.wrCnt = s.frz.wrCnt := by
  rcases earlyTicks_freeze env s with hkeep | ⟨hidle, -⟩
  · exact hkeep
  · exact absurd hidle h

/-- In a machine that is not idle the ticks never assert NMI. -/
theorem earlyTicks_nmiOut (env : Env) {s : State} (h : s.frz.fs ≠ .idle) (hn : s.nmiOut = false) :
    (earlyTicks env s).nmiOut = false := by
  have hnmi : nmiTick (capTick (dmaTick s)) = capTick (dmaTick s) := nmiTick_off (by simpa using hn)
  have hb := buttonTick_freeze env.buttonIn (capTick (dmaTick s))
  show (buttonTick env.buttonIn (nmiTick (capTick (dmaTick s)))).nmiOut = false
  rw [hnmi]
  rcases hb with ⟨-, -, hkeep⟩ | ⟨hidle, -⟩
  · rw [hkeep]
    simpa using hn
  · exact absurd (by simpa using hidle) h

/-- An invocation without a firing reset: the operation, freeze control, and the ticks that can still act. -/
theorem cycle_without_reset {s t : State} {env : Env} (h : Cycle s env t) (hr : ¬FiresReset s env) :
    ∃ u m, exec (decodeSample s.cfg.variant (sampleTaken s.cfg env))
          (recordShadow (sampleTaken s.cfg env) (beginInvocation { s with inputs := s.inputs.tail })) = .next u ∧
      (u.cfg = s.cfg ∧ u.frz = s.frz ∧ u.nmiOut = s.nmiOut) ∧
      t = { earlyTicks env (if env.p1.vid = true then u else freezeObserve env.p1.rw u) with rst := m } := by
  obtain ⟨u, hexec, rfl⟩ := cycle_runs h
  obtain ⟨hcfg, -, -, -, -, hrst, hfrz, -, hnmi⟩ := exec_keeps hexec
  simp only [recordShadow_cfg, recordShadow_rst, recordShadow_frz, recordShadow_nmiOut, beginInvocation_cfg,
    beginInvocation_rst, beginInvocation_frz, beginInvocation_nmiOut] at hcfg hrst hfrz hnmi
  generalize hv : (if env.p1.vid = true then u else freezeObserve env.p1.rw u) = v
  have hvkeeps : v.cfg = s.cfg ∧ v.rst = s.rst := by
    rw [← hv]
    split
    · exact ⟨hcfg, hrst⟩
    · exact ⟨by rw [freezeObserve_cfg, hcfg], by rw [freezeObserve_rst, hrst]⟩
  rcases resetTick_cases env.resetIn (earlyTicks env v) with ⟨hin, hcnt, -⟩ | ⟨-, m, heq⟩
  · refine absurd ⟨hin, ?_⟩ hr
    simpa [earlyTicks, middleTicks, hvkeeps.1, hvkeeps.2] using hcnt
  · exact ⟨u, m, hexec, ⟨hcfg, hfrz, hnmi⟩, by rw [hv]; exact heq⟩

/-! ### The auto-disable countdown beside freeze control -/

/-- Only EPYX has an operation that writes the countdown (41_simple_bank R193, R194). -/
theorem exec_capCnt {v : Variant} (hv : v ≠ .epyx) {i : Instr} (hi : RunsIn v i) {s t : State}
    (h : exec i s = .next t) : t.capCnt = s.capCnt := by
  cases i with
  | epRomlR | epIo1R => exact absurd hi.symm hv
  | gmIo1W al d =>
    cases h
    split <;> simp
  | _ =>
    cases h
    (repeat' split) <;> simp

/-- In a machine that is not idle MAP and CARTEN are left by the ticks as the auto-disable tick leaves them. -/
theorem earlyTicks_map_carten (env : Env) (s : State) :
    (s.cfg.autoDisableCycles = none ∨ s.capCnt ≠ 0 →
      (earlyTicks env s).map = s.map ∧ (earlyTicks env s).reg = s.reg) ∧
    (s.cfg.autoDisableCycles ≠ none → s.reg.carten = true → s.capCnt = 0 →
      (earlyTicks env s).map = modeOff ∧ (earlyTicks env s).reg = { s.reg with carten := false }) := by
  have hmap : (earlyTicks env s).map = (capTick (dmaTick s)).map := by simp [earlyTicks, middleTicks]
  have hreg : (earlyTicks env s).reg = (capTick (dmaTick s)).reg := by simp [earlyTicks, middleTicks]
  rw [hmap, hreg]
  have hcap := capTick_cases (dmaTick s)
  simp only [dmaTick_cfg, dmaTick_reg, dmaTick_capCnt] at hcap
  refine ⟨fun hstay => ?_, fun hauto hen hzero => ?_⟩
  · rcases hcap with ⟨hauto, -, hzero, -⟩ | ⟨-, -, -, heq⟩ | ⟨-, heq⟩
    · exact absurd hstay (by simp [hauto, hzero])
    · rw [heq]
      exact ⟨by simp, by simp⟩
    · rw [heq]
      exact ⟨by simp, by simp⟩
  · rcases hcap with ⟨-, -, -, heq⟩ | ⟨-, -, hne, -⟩ | ⟨hnone, -⟩
    · rw [heq]
      exact ⟨rfl, by rw [disable_reg, dmaTick_reg]⟩
    · exact absurd hzero hne
    · exact absurd hnone (by simp [hauto, hen])

/-! ### Freeze observation -/

theorem freezeObserve_not_armed {s : State} (h : ¬(isFreezer s.cfg.variant = true ∧ s.frz.fs = .armed)) (rw : Bool) :
    freezeObserve rw s = s := by
  rcases freezeObserve_cases rw s with ⟨-, heq⟩ | ⟨hf, harmed, -⟩
  · exact heq
  · exact absurd ⟨hf, harmed⟩ h

theorem freezeObserve_read {s : State} (hf : isFreezer s.cfg.variant = true) (ha : s.frz.fs = .armed) :
    freezeObserve true s = { s with frz := { s.frz with wrCnt := 0 } } := by
  unfold freezeObserve
  rw [if_pos (by simp [hf, ha])]
  rfl

theorem freezeObserve_write {s : State} (hf : isFreezer s.cfg.variant = true) (ha : s.frz.fs = .armed)
    (hw : s.frz.wrCnt ≠ 2) : freezeObserve false s = { s with frz := { s.frz with wrCnt := s.frz.wrCnt + 1 } } := by
  unfold freezeObserve
  rw [if_pos (by simp [hf, ha]), if_neg Bool.false_ne_true, if_neg (by simpa [Config.freezeWrites] using hw)]

theorem freezeObserve_thirdWrite {s : State} (hf : isFreezer s.cfg.variant = true) (ha : s.frz.fs = .armed)
    (hw : s.frz.wrCnt = 2) :
    freezeObserve false s = enterActive { s with frz := { s.frz with wrCnt := 3 } } := by
  unfold freezeObserve
  rw [if_pos (by simp [hf, ha]), if_neg Bool.false_ne_true, if_pos (by rw [hw]; rfl), hw]

/-- The machine an armed freezer's third write in a row leaves, after the ticks of that invocation. -/
theorem thirdWrite_enters_frozen {u : State} (env : Env) (hf : isFreezer u.cfg.variant = true)
    (ha : u.frz.fs = .armed) (hw : u.frz.wrCnt = 2) :
    let t := earlyTicks env (freezeObserve false u)
    t.frz.fs = .active ∧ t.frz.wrCnt = 3 ∧ t.nmiOut = false ∧
      (u.cfg.autoDisableCycles = none ∨ u.capCnt ≠ 0 → t.map = ⟨true, false⟩ ∧ t.reg.carten = true) ∧
      (u.cfg.autoDisableCycles ≠ none → u.capCnt = 0 → t.map = modeOff ∧ t.reg.carten = false) ∧
      (u.cfg.variant ≠ .freezeframe →
        t.reg.bank = 0 ∧ t.reg.ctrl = 0 ∧ t.reg.ramexp = decide (u.cfg.variant = .supersnapshot5)) := by
  intro t
  have hfrozen : t = earlyTicks env (enterActive { u with frz := { u.frz with wrCnt := 3 } }) := by
    rw [← freezeObserve_thirdWrite hf ha hw]
  have hregs := @enterActive_registers { u with frz := { u.frz with wrCnt := 3 } } hf
  generalize hv : enterActive { u with frz := { u.frz with wrCnt := 3 } } = v at hfrozen hregs
  have hfs : v.frz.fs = .active := by rw [← hv, enterActive_frz]
  have hactive : v.frz.fs ≠ .idle := by simp [hfs]
  obtain ⟨htfs, htwr⟩ := earlyTicks_of_not_idle env hactive
  obtain ⟨hstays, hexpires⟩ := earlyTicks_map_carten env v
  have hcfg : v.cfg = u.cfg := by rw [← hv, enterActive_cfg]
  have hcap : v.capCnt = u.capCnt := by rw [← hv, enterActive_capCnt]
  have hen : v.reg.carten = true := by rw [← hv, enterActive_carten]
  rw [hcfg, hcap] at hstays hexpires
  rw [hfrozen]
  refine ⟨by rw [htfs, hfs], by rw [htwr, ← hv, enterActive_frz],
    earlyTicks_nmiOut env hactive (by rw [← hv, enterActive_nmiOut]), fun hstay => ?_, fun hauto hzero => ?_,
    fun hvar => ?_⟩
  · obtain ⟨hmap, hreg⟩ := hstays hstay
    exact ⟨by rw [hmap, ← hv, enterActive_map], by rw [hreg, hen]⟩
  · obtain ⟨hmap, hreg⟩ := hexpires hauto hen hzero
    exact ⟨hmap, by rw [hreg]⟩
  · obtain ⟨hbank, hctrl, hexp⟩ := hregs hvar
    by_cases hstay : u.cfg.autoDisableCycles = none ∨ u.capCnt ≠ 0
    · obtain ⟨-, hreg⟩ := hstays hstay
      rw [hreg]
      exact ⟨hbank, hctrl, hexp⟩
    · obtain ⟨hauto, hzero⟩ := not_or.mp hstay
      obtain ⟨-, hreg⟩ := hexpires hauto hen (Decidable.not_not.mp hzero)
      rw [hreg]
      exact ⟨hbank, hctrl, hexp⟩

end Sys2Proof.Machine

namespace Sys2Proof.Proofs

open Sys2Proof.Machine Sys2Proof.Claims

/-- Settles O49: freeze control and the ticks, from each state of the machine. -/
theorem freezeLeavesOnlyByReset : Obligations.FreezeLeavesOnlyByReset := by
  intro s t env hcycle hr
  obtain ⟨u, m, -, ⟨hcfg, hfrz, -⟩, rfl⟩ := cycle_without_reset hcycle hr
  have hkeep {v : State} (hv : v.frz.fs ≠ .idle) : (earlyTicks env v).frz.fs = v.frz.fs :=
    (earlyTicks_of_not_idle env hv).1
  refine ⟨fun hactive => ?active, fun harmed => ?armed, fun hidle => ?idle⟩
  case active =>
    have hobs : (if env.p1.vid = true then u else freezeObserve env.p1.rw u) = u := by
      rw [freezeObserve_not_armed (by simp [hfrz, hactive]), ite_self]
    rw [hobs]
    exact (hkeep (by simp [hfrz, hactive])).trans (by rw [hfrz, hactive])
  case armed =>
    rw [← hfrz] at harmed
    have hkept {v : State} (hv : v.frz.fs = .armed) : (earlyTicks env v).frz.fs = .armed :=
      (hkeep (by simp [hv])).trans hv
    split
    next hvid => exact .inl (hkept harmed)
    next hvid =>
      rcases freezeObserve_cases env.p1.rw u with ⟨-, heq⟩ | ⟨-, -, ⟨-, heq⟩ | ⟨hw, hcnt, heq⟩ | ⟨-, -, heq⟩⟩ <;>
        rw [heq]
      · exact .inl (hkept harmed)
      · exact .inl (hkept harmed)
      · refine .inr ⟨(hkeep (by simp)).trans (by simp), by simpa using hvid, hw, by rw [← hfrz]; exact hcnt⟩
      · exact .inl (hkept harmed)
  case idle =>
    have hobs : (if env.p1.vid = true then u else freezeObserve env.p1.rw u) = u := by
      rw [freezeObserve_not_armed (by simp [hfrz, hidle]), ite_self]
    rw [hobs]
    rcases earlyTicks_freeze env u with ⟨hfs, -⟩ | ⟨-, harmed, hf, hb, hcnt⟩
    · exact .inl (hfs.trans (by rw [hfrz, hidle]))
    · exact .inr ⟨harmed, by rw [← hcfg]; exact hf, hb, by rw [← hfrz, ← hcfg]; exact hcnt⟩

/-- Settles O45, by the branches of `ButtonTick` and by counting pressed ticks. -/
theorem buttonDebounceGivesOneEdge : Obligations.ButtonDebounceGivesOneEdge := by
  intro s m
  refine ⟨fun h => ⟨buttonTick_not_freezer h true, buttonTick_not_freezer h false⟩, buttonTick_released, ?_,
    buttonEdge_of_not_idle, buttonTick_saturated, fun hf hc => buttonTick_iterate hf hc m⟩
  unfold reinit
  split <;> rfl

/-- Settles O46: the edge asserts NMI with its hold, and the ticks count it down. -/
theorem nmiTimeline : Obligations.NmiTimeline := by
  intro s m hf hidle
  rw [buttonEdge_of_idle hidle]
  exact nmiTick_iterate (by exact hf) (by rfl) m

/-- Settles O47: the common part of the entry, then the mapping of each variant. -/
theorem enterActiveMapsTheCartridge : Obligations.EnterActiveMapsTheCartridge := by
  intro s u
  exact ⟨@mapFrozen_freezeframe u, @mapFrozen_actionreplay u, @mapFrozen_supersnapshot5 u⟩

/-- Settles O48: the observation as a whole state, and what an invocation makes of each sample. -/
theorem armedCountsConsecutiveWrites : Obligations.ArmedCountsConsecutiveWrites := by
  refine ⟨fun s rw => ⟨fun h => freezeObserve_not_armed h rw, fun hf ha =>
    ⟨freezeObserve_read hf ha, freezeObserve_write hf ha, freezeObserve_thirdWrite hf ha⟩⟩, ?_⟩
  intro s t env hcycle hf ha hr
  obtain ⟨u, m, hexec, ⟨hcfg, hfrz, -⟩, rfl⟩ := cycle_without_reset hcycle hr
  have hfu : isFreezer u.cfg.variant = true := by rw [hcfg, hf]
  have hau : u.frz.fs = .armed := by rw [hfrz, ha]
  have hcap : u.capCnt = s.capCnt := by
    have hv : s.cfg.variant ≠ .epyx := fun h => by simp [h, isFreezer] at hf
    simpa using exec_capCnt hv (decodeSample_runsIn s.cfg.variant _) hexec
  have hticks {v : State} (hv : v.frz.fs = .armed) :
      (earlyTicks env v).frz.fs = .armed ∧ (earlyTicks env v).frz.wrCnt = v.frz.wrCnt := by
    obtain ⟨hfs, hwr⟩ := earlyTicks_of_not_idle env (by simp [hv] : v.frz.fs ≠ .idle)
    exact ⟨hfs.trans hv, hwr⟩
  rw [← hfrz, ← hcfg, ← hcap]
  refine ⟨fun hvid => ?video, fun hvid hread => ?read, fun hvid hwrite hcnt => ?write, fun hvid hwrite hcnt => ?third⟩
  case video =>
    rw [if_pos hvid]
    exact hticks hau
  all_goals rw [if_neg (by simp [hvid])]
  case read =>
    rw [hread, freezeObserve_read hfu hau]
    exact hticks hau
  case write =>
    rw [hwrite, freezeObserve_write hfu hau hcnt]
    exact hticks hau
  case third =>
    rw [hwrite]
    exact thirdWrite_enters_frozen env hfu hau hcnt

end Sys2Proof.Proofs
end

section
/-!
PROOF. An invocation from outside: what it leaves alone, what it drives, the shadow bytes (40_cycle R140 to R150); the
auto-disable capacitor (R153), the reset monitor and `Reinit()` (60_exceptions R375 to R378).
-/

namespace Sys2Proof.Machine

open Sys2Proof.Claims

/-! ### What an invocation leaves alone -/

theorem cycle_keeps_session {s t : State} {env : Env} (h : Cycle s env t) :
    t.cfg = s.cfg ∧ t.active = s.active ∧ t.sessionNo = s.sessionNo ∧ t.loadError = s.loadError ∧
      t.inputs = s.inputs.tail := by
  obtain ⟨u, hexec, rfl⟩ := cycle_runs h
  obtain ⟨hcfg, hactive, hno, herr, hin, -⟩ := exec_keeps hexec
  split <;> simp_all [stageSeven]

/-! ### What an invocation drives -/

/-- An operation that is no `IGN` has the direction of the sample it is decoded from. -/
theorem decodeSample_rw (v : Variant) (S : BusCycleSample) :
    decodeSample v S = .ign ∨ (decodeSample v S).sample.2.rw = S.rw := by
  unfold decodeSample
  split
  · cases S.rw <;> cases S.romh <;> exact .inr rfl
  · cases v with
    | easyflash =>
      simp only [decodeVariant]
      split
      case h_3 hrw => split <;> exact .inr hrw.symm
      case h_8 => exact .inl rfl
      all_goals simp_all [Instr.sample, romSample, ioSample, sampleOf]
    | _ =>
      simp only [decodeVariant]
      split <;> simp_all [Instr.sample, romSample, ioSample, sampleOf]

/-- A write operation drives no byte (40_cycle R150). -/
theorem exec_drive_of_write {i : Instr} (hi : i.sample.2.rw = false) {s t : State} (h : exec i s = .next t) :
    t.drive = s.drive := by
  cases i with
  | gmIo1W al d =>
    cases h
    split <;> simp
  | mdIo1W | gsIo1W | ocIo1W | coIo1W | huIo1W | prIo2W | sbIo1W | efIo1WBank | efIo1WCtrl | efIo2W | efRomlW | efRomhW
  | arRomlW | arRomhW | arIo1W | arIo2W | ssRomlW | ssIo1W | vidIgnW =>
    cases h
    (repeat' split) <;> simp
  | _ => cases hi

theorem decodeSample_write_drive {v : Variant} {S : BusCycleSample} (hS : S.rw = false) {s t : State}
    (h : exec (decodeSample v S) s = .next t) : t.drive = s.drive := by
  rcases decodeSample_rw v S with hign | hrw
  · rw [hign] at h
    cases h
    rfl
  · exact exec_drive_of_write (hrw.trans hS) h

/-! ### The shadow bytes -/

/-- The shadow byte of a window and address after the shadow write of a sample (40_cycle R146). -/
theorem memRead_recordShadow (io2 : Bool) (al : Byte) (S : BusCycleSample) (s : State) :
    memRead .shadow (shadowIndex io2 al) (recordShadow S s) =
      if S.vid = false ∧ S.rw = false ∧ S.win = (if io2 then .io2 else .io1) ∧ S.addrLo = al then S.data
      else memRead .shadow (shadowIndex io2 al) s := by
  by_cases hwrite : S.vid = false ∧ S.rw = false
  · obtain ⟨hvid, hrw⟩ := hwrite
    have hserved (w : Bool) (hwin : S.win = if w then .io2 else .io1) :
        recordShadow S s = memWrite .shadow (shadowIndex w S.addrLo) S.data s := by
      unfold recordShadow
      rw [hvid, hrw, hwin]
      cases w <;> rfl
    by_cases hio : S.win = .io1 ∨ S.win = .io2
    · obtain ⟨w, hwin⟩ : ∃ w : Bool, S.win = if w then .io2 else .io1 :=
        hio.elim (fun h => ⟨false, h⟩) fun h => ⟨true, h⟩
      rw [hserved w hwin, memRead_memWrite, hwin]
      simp only [true_and, hvid, hrw, shadowIndex_inj]
      cases io2 <;> cases w <;> simp [eq_comm]
    · have hnone : recordShadow S s = s := by
        unfold recordShadow
        cases hwin : S.win <;> simp_all
      rw [hnone, if_neg]
      rintro ⟨-, -, hwin, -⟩
      cases io2
      · exact hio (.inl hwin)
      · exact hio (.inr hwin)
  · rw [if_neg fun h => hwrite ⟨h.1, h.2.1⟩]
    rcases recordShadow_cases S s with heq | ⟨hvid, hrw, -⟩
    · rw [heq]
    · exact absurd ⟨hvid, hrw⟩ hwrite

/-- A read looks at its own store, and at the session for an index without a cell. -/
theorem memRead_congr (sp : Space) {s t : State} (hno : t.sessionNo = s.sessionNo) (hstore : storeOf t sp = storeOf s sp)
    (a : Nat) : memRead sp a t = memRead sp a s := by
  simp only [memRead, hno, hstore]

/-- After the shadow write of its sample an invocation changes no shadow byte. -/
theorem cycle_shadow {s t : State} {env : Env} (h : Cycle s env t) (a : Nat) :
    memRead .shadow a t = memRead .shadow a (recordShadow (sampleTaken s.cfg env) s) := by
  obtain ⟨u, hexec, rfl⟩ := cycle_runs h
  obtain ⟨-, -, hno, -, -, -, -, hshadow, -⟩ := exec_keeps hexec
  have hrecord : (recordShadow (sampleTaken s.cfg env) (beginInvocation { s with inputs := s.inputs.tail })).shadow =
      (recordShadow (sampleTaken s.cfg env) s).shadow := by
    unfold recordShadow
    (repeat' split) <;> rfl
  refine memRead_congr .shadow ?session ?store a
  case session => split <;> simp_all [stageSeven]
  case store =>
    refine Eq.trans ?_ (hshadow.trans hrecord)
    split <;> simp [stageSeven, storeOf]

theorem sampleTaken_addrLo_eq_iff (cfg : Cfg) (env : Env) (al : Byte) :
    (sampleTaken cfg env).addrLo = al ↔ env.p1.addr.toNat % 256 = al.toNat := by
  rw [← BitVec.toNat_inj]
  exact Iff.of_eq (congrArg (· = al.toNat) (BitVec.toNat_ofNat ..))

/-! ### The auto-disable capacitor -/

theorem capTick_inert {s : State} (h : s.cfg.autoDisableCycles = none ∨ s.reg.carten = false) : capTick s = s := by
  rcases capTick_cases s with ⟨hauto, hen, -⟩ | ⟨hauto, hen, -⟩ | ⟨-, heq⟩
  · exact absurd h (by simp [hauto, hen])
  · exact absurd h (by simp [hauto, hen])
  · exact heq

theorem capTick_counts {s : State} (hauto : s.cfg.autoDisableCycles ≠ none) (hen : s.reg.carten = true)
    (hc : s.capCnt ≠ 0) : capTick s = { s with capCnt := s.capCnt - 1 } := by
  rcases capTick_cases s with ⟨-, -, hzero, -⟩ | ⟨-, -, -, heq⟩ | ⟨h, -⟩
  · exact absurd hzero hc
  · exact heq
  · exact absurd h (by simp [hauto, hen])

theorem capTick_expires {s : State} (hauto : s.cfg.autoDisableCycles ≠ none) (hen : s.reg.carten = true)
    (hc : s.capCnt = 0) : capTick s = disable s := by
  rcases capTick_cases s with ⟨-, -, -, heq⟩ | ⟨-, -, hne, -⟩ | ⟨h, -⟩
  · exact heq
  · exact absurd hc hne
  · exact absurd h (by simp [hauto, hen])

theorem capTick_iterate_inert {s : State} (h : s.cfg.autoDisableCycles = none ∨ s.reg.carten = false) (m : Nat) :
    capTick^[m] s = s := by
  induction m with
  | zero => rfl
  | succ m ih => rw [Function.iterate_succ_apply', ih, capTick_inert h]

/-- The countdown of an enabled cartridge, and the tick after 0 that takes it off the bus. -/
theorem capTick_iterate {s : State} (hauto : s.cfg.autoDisableCycles ≠ none) (hen : s.reg.carten = true) (m : Nat) :
    capTick^[m] s =
      if m ≤ s.capCnt then { s with capCnt := s.capCnt - m } else { mapped false modeOff s with capCnt := 0 } := by
  induction m with
  | zero => simp
  | succ m ih =>
    rw [Function.iterate_succ_apply', ih]
    rcases Nat.lt_trichotomy m s.capCnt with hlt | heq | hgt
    · have hne : s.capCnt - m ≠ 0 := by omega
      have hsub : s.capCnt - m - 1 = s.capCnt - (m + 1) := by omega
      rw [if_pos (by omega), if_pos (by omega), capTick_counts ?auto ?enabled ?count]
      case auto => exact hauto
      case enabled => exact hen
      case count => exact hne
      rw [hsub]
    · have hzero : s.capCnt - m = 0 := by omega
      rw [if_pos (by omega), if_neg (by omega), capTick_expires ?auto ?enabled ?count]
      case auto => exact hauto
      case enabled => exact hen
      case count => exact hzero
      rw [hzero]
      rfl
    · rw [if_neg (by omega), if_neg (by omega), capTick_inert (.inr rfl)]

/-! ### The reset monitor -/

theorem resetTick_released (s : State) :
    resetTick false s =
      { s with rst := { cnt := 0, pressed := false, released := s.rst.pressed || s.rst.released } } := rfl

theorem resetTick_counts {s : State} (h : s.rst.cnt + 1 < s.cfg.resetDebounceN) :
    resetTick true s = { s with rst := { s.rst with cnt := s.rst.cnt + 1, released := false } } := by
  unfold resetTick
  rw [if_pos rfl, if_pos (by omega), if_neg (by omega)]

theorem resetTick_fires {s : State} (h : s.rst.cnt + 1 = s.cfg.resetDebounceN) :
    resetTick true s = reinit { s with rst := { cnt := s.cfg.resetDebounceN, pressed := true, released := false } } := by
  unfold resetTick
  rw [if_pos rfl, if_pos (by omega), if_pos h, h]

theorem resetTick_saturated {s : State} (h : s.cfg.resetDebounceN ≤ s.rst.cnt) :
    resetTick true s = { s with rst := { s.rst with released := false } } := by
  unfold resetTick
  rw [if_pos rfl, if_neg (by omega)]

/-- What an asserted tick does to the counter and to the flag of a monitor that has not passed its threshold. -/
theorem resetTick_asserted_rst {s : State} (hbound : s.rst.cnt ≤ s.cfg.resetDebounceN)
    (hpressed : s.rst.pressed = true ↔ s.cfg.resetDebounceN ≤ s.rst.cnt) :
    (resetTick true s).rst.cnt = min (s.rst.cnt + 1) s.cfg.resetDebounceN ∧
      ((resetTick true s).rst.pressed = true ↔ s.cfg.resetDebounceN ≤ s.rst.cnt + 1) := by
  rcases Nat.lt_trichotomy (s.rst.cnt + 1) s.cfg.resetDebounceN with hlt | heq | hgt
  · rw [resetTick_counts hlt]
    exact ⟨by simp; omega, hpressed.trans (by omega)⟩
  · rw [resetTick_fires heq, reinit_rst]
    exact ⟨by simp; omega, by simp; omega⟩
  · rw [resetTick_saturated (by omega)]
    exact ⟨by simp; omega, hpressed.trans (by omega)⟩

/-- An invocation hands the monitor's state to its tick unchanged. -/
theorem cycle_rst {s t : State} {env : Env} (h : Cycle s env t) :
    ∃ v : State, v.cfg = s.cfg ∧ v.rst = s.rst ∧ t = resetTick env.resetIn v := by
  obtain ⟨u, hexec, rfl⟩ := cycle_runs h
  obtain ⟨hcfg, -, -, -, -, hrst, -⟩ := exec_keeps hexec
  refine ⟨earlyTicks env (if env.p1.vid = true then u else freezeObserve env.p1.rw u), ?_, ?_, rfl⟩
  · split <;> simp_all [earlyTicks, middleTicks]
  · split <;> simp_all [earlyTicks, middleTicks]

theorem core_run_succ {s t : State} {k : Nat} (h : core.run (k + 1) s = .next t) :
    ∃ r, step s = .next r ∧ core.run k r = .next t := by
  obtain ⟨r, hr⟩ := step_completes s
  refine ⟨r, hr, ?_⟩
  have hrun : core.run (k + 1) s = core.run k r := by
    have hcore : core.step s = .next r := hr
    simp only [Host.Core.run, hcore]
  rw [← hrun, h]

/-- A run of invocations with the line asserted, from a monitor whose flag agrees with its count. -/
theorem run_asserted_rst {k : Nat} {s t : State} {envs : List Env} {rest : List Input} (hactive : s.active = true)
    (hinputs : s.inputs = envs.map .clkIrq ++ rest) (hline : ∀ e ∈ envs, e.resetIn = true)
    (hbound : s.rst.cnt ≤ s.cfg.resetDebounceN)
    (hpressed : s.rst.pressed = true ↔ s.cfg.resetDebounceN ≤ s.rst.cnt) (hk : k ≤ envs.length)
    (hrun : core.run k s = .next t) :
    t.rst.cnt = min (s.rst.cnt + k) s.cfg.resetDebounceN ∧
      (t.rst.pressed = true ↔ s.cfg.resetDebounceN ≤ s.rst.cnt + k) := by
  induction k generalizing s envs with
  | zero =>
    cases hrun
    exact ⟨by omega, hpressed⟩
  | succ k ih =>
    obtain ⟨r, hstep, hrun⟩ := core_run_succ hrun
    cases envs with
    | nil => simp at hk
    | cons e envs =>
      have hcycle : Cycle s e r := ⟨hactive, by rw [hinputs]; rfl, hstep⟩
      obtain ⟨hcfg, hra, -, -, hrin⟩ := cycle_keeps_session hcycle
      obtain ⟨v, hvcfg, hvrst, rfl⟩ := cycle_rst hcycle
      rw [hline e (.head _)] at *
      have htick := @resetTick_asserted_rst v
      rw [hvcfg, hvrst] at htick
      obtain ⟨hcnt, hflag⟩ := htick hbound hpressed
      have hnext := ih (hra.trans hactive) (hrin.trans (by rw [hinputs]; rfl)) (fun e he => hline e (.tail _ he))
        (by rw [hcfg, hcnt]; omega) (by rw [hcfg, hcnt, hflag]; omega)
        (by simpa using hk) hrun
      rw [hcfg, hcnt] at hnext
      exact ⟨hnext.1.trans (by omega), hnext.2.trans (by omega)⟩

/-! ### `Reinit()` -/

theorem reinit_eq (s : State) :
    reinit s =
      { reinitProtocol s with
        events := if s.cfg.fitsInCache = true then s.events else s.events ++ [.prefetch 0]
        resident := if s.cfg.fitsInCache = true then allBanks s.cfg else [0] } := by
  unfold reinit
  split <;> rfl

/-- The protocol state after `Reinit()`, and the monitor, which it keeps. -/
theorem reinit_values {s : State} {cfg : Cfg} (hcfg : s.cfg = cfg) :
    (reinit s).reg = { bank := 0, ctrl := 0, ramexp := decide (cfg.variant = .supersnapshot5), carten := true } ∧
      (reinit s).map = mapDefault cfg ∧ (reinit s).nmiOut = false ∧ (reinit s).stallOut = false ∧
      (reinit s).dma = { pending := none, release := none, bank := 0 } ∧ (reinit s).frz.fs = .idle ∧
      (reinit s).frz.wrCnt = 0 ∧ (reinit s).frz.nmiCnt = 0 ∧ (reinit s).capCnt = cfg.autoDisableCycles.getD 0 ∧
      (reinit s).flash = ⟨.read, .read⟩ ∧ (reinit s).eepi = { EepromIface.initial with wen := (reinit s).eepi.wen } ∧
      (reinit s).resident = (if cfg.fitsInCache = true then allBanks cfg else [0]) ∧ (reinit s).rst = s.rst := by
  subst hcfg
  rw [reinit_eq]
  exact ⟨rfl, rfl, rfl, rfl, rfl, rfl, rfl, rfl, rfl, rfl, rfl, rfl, rfl⟩

/-- What is the same in an invocation with its reset line asserted and without. -/
theorem step_eq_resetTick {s : State} {env : Env} {rest : List Input} (hactive : s.active = true)
    (hinputs : s.inputs = .clkIrq env :: rest) :
    ∃ v : State, v.cfg = s.cfg ∧ v.rst = s.rst ∧ step s = .next (resetTick env.resetIn v) ∧
      step { s with inputs := .clkIrq { env with resetIn := false } :: rest } = .next (resetTick false v) := by
  obtain ⟨t, hstep⟩ := step_completes s
  have hcycle : Cycle s env t := ⟨hactive, by rw [hinputs]; rfl, hstep⟩
  obtain ⟨u, hexec, ht⟩ := cycle_runs hcycle
  rw [hinputs] at hexec
  obtain ⟨hcfg, -, -, -, -, hrst, -⟩ := exec_keeps hexec
  refine ⟨earlyTicks env (if env.p1.vid = true then u else freezeObserve env.p1.rw u), ?_, ?_, ?_, ?_⟩
  · split <;> simp_all [earlyTicks, middleTicks]
  · split <;> simp_all [earlyTicks, middleTicks]
  · rw [hstep, ht]
    rfl
  · obtain ⟨t', hstep'⟩ := step_completes { s with inputs := .clkIrq { env with resetIn := false } :: rest }
    have hcycle' : Cycle { s with inputs := .clkIrq { env with resetIn := false } :: rest }
        { env with resetIn := false } t' := ⟨hactive, rfl, hstep'⟩
    obtain ⟨u', hexec', rfl⟩ := cycle_runs hcycle'
    -- the operation does not look at the reset line
    cases hexec.symm.trans hexec'
    exact hstep'

end Sys2Proof.Machine

namespace Sys2Proof.Proofs

open Sys2Proof.Machine Sys2Proof.Claims

/-- Settles O10: an empty list of inputs, and an interrupt without a session. -/
theorem idleWithoutInputOrSession : Obligations.IdleWithoutInputOrSession := by
  refine fun s => ⟨step_of_nil, fun env rest hactive hinputs => ?_⟩
  rw [step_of_cons hinputs, receive_clkIrq]
  exact if_neg (by simp [hactive])

/-- Settles O11, by the frames of the operation and of the stages around it. -/
theorem configurationIsFixedInASession : Obligations.ConfigurationIsFixedInASession := by
  intro s t env hcycle
  obtain ⟨hcfg, hactive, hno, herr, hin⟩ := cycle_keeps_session hcycle
  exact ⟨hcfg, hactive.trans hcycle.1, hno, herr, hin⟩

/-- Settles O12: the outputs are cleared before anything looks at them. -/
theorem outputsAreFreshEachInvocation : Obligations.OutputsAreFreshEachInvocation := by
  intro s env rest o es hactive hinputs
  rw [step_clkIrq hactive hinputs, @step_clkIrq { s with drive := o, events := es } _ _ hactive hinputs]
  rfl

/-- Settles O13: nothing is driven before the operation, and a write operation drives nothing. -/
theorem writesDriveNothing : Obligations.WritesDriveNothing := by
  intro s t env hcycle hwrite
  obtain ⟨u, hexec, rfl⟩ := cycle_runs hcycle
  have hdrive : u.drive = none := by simpa using decodeSample_write_drive hwrite hexec
  split <;> simpa [stageSeven] using hdrive

/-- Settles O14, by the shadow write of the sample. -/
theorem shadowRecordsEveryIoWrite : Obligations.ShadowRecordsEveryIoWrite := by
  intro s t env hcycle io2 al
  simp only [cycle_shadow hcycle, memRead_recordShadow, sampleTaken_addrLo_eq_iff]
  rfl

/-- Settles O50, by counting ticks. -/
theorem autoDisableTimeline : Obligations.AutoDisableTimeline :=
  fun _ m => ⟨fun h => capTick_iterate_inert h m, fun hauto hen => capTick_iterate hauto hen m⟩

/-- Settles O51: the branches of `ResetTick`, and a pulse by induction on its invocations. -/
theorem resetPulseFiresOnce : Obligations.ResetPulseFiresOnce := by
  intro s
  refine ⟨resetTick_released s, resetTick_counts, resetTick_fires, resetTick_saturated, ?_⟩
  intro envs rest k t hactive hinputs hline hpos hcnt hpressed hk hrun
  have hflag : s.rst.pressed = true ↔ s.cfg.resetDebounceN ≤ s.rst.cnt := by
    rw [hpressed, hcnt]
    exact ⟨fun h => absurd h Bool.false_ne_true, fun h => by omega⟩
  have hpulse := run_asserted_rst hactive hinputs hline (by omega) hflag hk hrun
  rwa [hcnt, Nat.zero_add] at hpulse

/-- Settles O52, by unfolding `Reinit()` once. -/
theorem reinitSetsAndKeeps : Obligations.ReinitSetsAndKeeps := by
  intro s
  rw [reinit_eq]
  rfl

/-- Settles O53: the reset monitor is the last tick, so the state it fires in is the state of the same invocation without the
line, reinitialised. -/
theorem resetWins : Obligations.ResetWins := by
  intro s t env rest hactive hinputs ⟨hline, hcnt⟩ hstep
  obtain ⟨v, hcfg, hrst, hfired, hquiet⟩ := step_eq_resetTick hactive hinputs
  rw [hline, resetTick_fires (by rw [hrst, hcfg, hcnt]), hstep] at hfired
  rw [resetTick_released] at hquiet
  have ht := Host.Outcome.next.inj hfired
  obtain ⟨hreg, hmap, hnmi, hstall, hdma, hfs, hwr, hnc, hcap, hflash, heepi, hres, hrstate⟩ :=
    @reinit_values { v with rst := { cnt := v.cfg.resetDebounceN, pressed := true, released := false } } s.cfg hcfg
  rw [← ht] at hreg hmap hnmi hstall hdma hfs hwr hnc hcap hflash heepi hres hrstate
  refine ⟨hreg, hmap, hnmi, hstall, hdma, hfs, hwr, hnc, hcap, hflash, heepi, hres, by rw [hrstate, hcfg], _, hquiet, ?_⟩
  rw [ht, reinit_eq]
  exact ⟨rfl, rfl, rfl, rfl, rfl, rfl, rfl⟩

end Sys2Proof.Proofs
end

section
/-!
PROOF. Sessions (70_reset_and_hazards R410 to R415), the contents they start from, the physical store and its permutation
(20_memory R72, R74, 45_memory_mux_dma R334), and the protocols of the stores (20_memory R73).
-/

namespace Sys2Proof.Machine

open Sys2Proof.Claims

/-! ### Activation -/

theorem step_activate {s : State} {r : LoadResult} {rest : List Input} (h : s.inputs = .activate r :: rest) :
    step s = .next (activate r { s with inputs := rest }) := by
  rw [step_of_cons h]
  rfl

theorem step_deactivate {s : State} {rest : List Input} (h : s.inputs = .deactivate :: rest) :
    step s = .next (endSession none { s with inputs := rest }) := by
  rw [step_of_cons h]
  rfl

theorem activate_accepted {cfg : Cfg} (hcfg : cfg.accepted) (rom eep : List Host.Cell) (s : State) :
    activate (.ok cfg rom eep) s = startSession cfg rom eep s := by
  rw [activate, (accepted_iff_activationError cfg).mp hcfg]

theorem activate_emptyImage {cfg : Cfg} (h : cfg.bankCount = 0 ∨ cfg.hasL = false ∧ cfg.hasH = false)
    (rom eep : List Host.Cell) (s : State) :
    activate (.ok cfg rom eep) s = endSession (some .emptyImage) s := by
  rw [activate, activationError, if_pos h]

theorem activate_tooManyBanks {cfg : Cfg} (hdata : ¬(cfg.bankCount = 0 ∨ cfg.hasL = false ∧ cfg.hasH = false))
    (hbanks : 256 < cfg.bankCount) (rom eep : List Host.Cell) (s : State) :
    activate (.ok cfg rom eep) s = endSession (some .tooManyBanks) s := by
  rw [activate, activationError, if_neg hdata, if_pos hbanks]

theorem endSession_noSession (err : Option LoadError) (s : State) : NoSession (endSession err s) :=
  ⟨rfl, rfl, rfl, rfl, rfl⟩

@[simp] theorem endSession_inputs (err : Option LoadError) (s : State) : (endSession err s).inputs = s.inputs := rfl

@[simp] theorem endSession_loadError (err : Option LoadError) (s : State) : (endSession err s).loadError = err := rfl

@[simp] theorem activate_inputs (r : LoadResult) (s : State) : (activate r s).inputs = s.inputs := by
  rcases activate_cases r s with ⟨k, heq⟩ | ⟨cfg, rom, eep, -, -, heq⟩ <;> rw [heq] <;> rfl

/-! ### The contents of a fresh session -/

theorem lastAt_append_singleton (a : Nat) (cells : List Host.Cell) (c : Host.Cell) :
    lastAt a (cells ++ [c]) = if c.1 = a then some c.2 else lastAt a cells := by
  unfold lastAt
  rw [List.reverse_append, List.reverse_singleton, List.singleton_append, List.find?_cons]
  by_cases h : c.1 = a <;> simp [h]

/-- An index in range holds the last byte given for it; a byte equal to the fill is no cell. -/
theorem Memory.find_load (fill : Option Byte) {bound a : Nat} (ha : a < bound) (cells : List Host.Cell) :
    Memory.find a (Memory.load fill bound cells) = (lastAt a cells).filter fun b => fill ≠ some b := by
  unfold Memory.load
  induction cells using List.reverseRecOn with
  | nil => rfl
  | append_singleton cells c ih =>
    rw [List.foldl_append, List.foldl_cons, List.foldl_nil, lastAt_append_singleton]
    by_cases hc : c.1 = a
    · rw [if_pos (by omega), Memory.find_write, if_pos hc.symm, if_pos hc]
      by_cases hfill : fill = some c.2 <;> simp [hfill, Option.filter]
    · rw [if_neg hc, ← ih]
      split
      · rw [Memory.find_write, if_neg fun h => hc h.symm]
      · rfl

/-- Reading a loaded store, where the fill, if there is one, is what an index without a cell reads as. -/
theorem getD_find_load {sp : Space} {bound a : Nat} (ha : a < bound) (cells : List Host.Cell) (n : Nat) :
    (Memory.find a (Memory.load (fillOf sp) bound cells)).getD (unlistedByte sp n a) =
      (lastAt a cells).getD (unlistedByte sp n a) := by
  rw [Memory.find_load _ ha]
  cases hlast : lastAt a cells with
  | none => rfl
  | some b =>
    by_cases hfill : fillOf sp = some b
    · simp [hfill, Option.filter, unlistedByte_of_fillOf hfill]
    · simp [hfill, Option.filter]

theorem memRead_of_nil {sp : Space} {s : State} (h : storeOf s sp = []) (a : Nat) :
    memRead sp a s = unlistedByte sp s.sessionNo a := by
  rw [memRead, h]
  rfl

/-! ### The physical store -/

/-- Two stores filled from one image, at two numberings that tell the same bytes apart, hold the same byte for each. -/
theorem find_foldl_write_congr {f g : ImageByte → Nat} {a b : Nat} (image : List ImageByte)
    (h : ∀ x : ImageByte, f x = a ↔ g x = b) :
    Memory.find a (image.foldl (fun m x => Memory.write none (f x) x.val m) []) =
      Memory.find b (image.foldl (fun m x => Memory.write none (g x) x.val m) []) := by
  induction image using List.reverseRecOn with
  | nil => rfl
  | append_singleton image x ih =>
    simp only [List.foldl_append, List.foldl_cons, List.foldl_nil, Memory.find_write, ih]
    exact if_congr (by rw [eq_comm, h x, eq_comm]) rfl rfl

theorem physIndex_perm_eq_iff {perm : Offset → Offset} (hperm : Function.Injective perm) (interleaved : Bool)
    (b b' : Byte) (w w' : RomWindow) (o o' : Offset) :
    physIndex interleaved b w (perm o) = physIndex interleaved b' w' (perm o') ↔
      romIndex b w o = romIndex b' w' o' := by
  rw [physIndex_inj, romIndex_inj, hperm.eq_iff]

/-- The recorded permutation exchanges the eight low and the five high bits of an offset; its inverse puts them back
(20_memory R72). -/
theorem cacheToLinearOrder_linearToCacheOrder (o : Offset) : cacheToLinearOrder (linearToCacheOrder o) = o := by
  apply BitVec.eq_of_getLsbD_eq
  intro i hi
  interval_cases i <;> simp [linearToCacheOrder, cacheToLinearOrder]

theorem linearToCacheOrder_cacheToLinearOrder (p : Offset) : linearToCacheOrder (cacheToLinearOrder p) = p := by
  apply BitVec.eq_of_getLsbD_eq
  intro i hi
  interval_cases i <;> simp [linearToCacheOrder, cacheToLinearOrder]

end Sys2Proof.Machine

namespace Sys2Proof.Proofs

open Sys2Proof.Machine Sys2Proof.Claims

/-- Settles O26: by store, the operations that can reach it and the condition each of them tests. -/
theorem storesChangeOnlyThroughTheirProtocols : Obligations.StoresChangeOnlyThroughTheirProtocols := by
  intro i s t h a
  obtain ⟨-, -, hno, -, -, -, -, hshadow, -⟩ := exec_keeps h
  refine ⟨fun hrom => ?rom, fun hram => ?ram, fun heep => ?eep, memRead_congr .shadow hno hshadow a⟩
  case rom =>
    have hchange : t.rom ≠ s.rom := fun heq => hrom (memRead_congr .rom hno heq a)
    rcases exec_rom_cases h with heq | ⟨hen, w, off, d, hi, hwin, rfl⟩
    · exact absurd heq hchange
    refine ⟨hen, w, off, d, hi, hwin, ?_⟩
    rcases flashWrite_rom_cases w off d s with heq | ⟨hprogram, -⟩ | ⟨he2, hd, -⟩
    · exact absurd heq hchange
    · exact .inl hprogram
    · exact .inr ⟨he2, hd⟩
  case ram =>
    rcases exec_ram_cases h with heq | ⟨hby, -⟩
    · exact absurd (memRead_congr .ram hno heq a) hram
    · exact hby
  case eep =>
    have hchange : t.eep ≠ s.eep := fun heq => heep (memRead_congr .eep hno heq a)
    refine ⟨?_, (exec_eep_cases h).resolve_left hchange⟩
    -- with the latch clear no write happens, so being the old array is kept
    by_contra hw
    exact hchange (@exec_eep_keeps (· = s.eep) i s t (fun h => absurd h hw) rfl h)

/-- Settles O28: both stores are written at numberings that the permutation keeps apart. -/
theorem physicalStoreReturnsTheLogicalByte : Obligations.PhysicalStoreReturnsTheLogicalByte := by
  intro perm interleaved image b w off hperm
  exact find_foldl_write_congr image fun x => physIndex_perm_eq_iff hperm interleaved x.bank b x.w w x.off off

/-- Settles O29: the bits of the permutation one by one, and the two positions of a pair. -/
theorem permutationAndPairFetch : Obligations.PermutationAndPairFetch := by
  refine ⟨fun o => ⟨cacheToLinearOrder_linearToCacheOrder o, linearToCacheOrder_cacheToLinearOrder o⟩, ?_⟩
  intro romh m b p
  refine ⟨Nat.mul_mod_left _ 2, ?_⟩
  cases romh <;> rfl

/-- Settles O54, by the branches of activation. -/
theorem activationOutcome : Obligations.ActivationOutcome := by
  intro s rest
  refine ⟨fun k h => ⟨_, step_activate h, endSession_noSession _ _, rfl, rfl⟩, fun cfg rom eep h => ?_,
    fun h => ⟨_, step_deactivate h, endSession_noSession _ _, rfl, rfl⟩⟩
  refine ⟨_, step_activate h, activate_inputs _ _, fun hempty => ?_, fun hdata hbanks => ?_, fun hcfg => ?_⟩
  · rw [activate_emptyImage hempty]
    exact ⟨endSession_noSession _ _, rfl⟩
  · rw [activate_tooManyBanks hdata hbanks]
    exact ⟨endSession_noSession _ _, rfl⟩
  · rw [activate_accepted hcfg]
    exact ⟨rfl, rfl, rfl⟩

/-- Settles O55: the values of the session activation starts, with the two forms of the preload. -/
theorem activationValues : Obligations.ActivationValues := by
  intro s rest cfg rom eep h hcfg
  refine ⟨_, step_activate h, ?_⟩
  rw [activate_accepted hcfg]
  refine ⟨rfl, rfl, rfl, rfl, rfl, rfl, rfl, rfl, rfl, rfl, rfl, rfl, ?_⟩
  show (preloaded cfg).map OutEvent.prefetch = _
  unfold preloaded
  split <;> rfl

/-- Settles O56: the loaded stores hold the last byte given, and the stores that start empty read as free values. -/
theorem loadedContentsAreReadBack : Obligations.LoadedContentsAreReadBack := by
  intro s t rest cfg rom eep h hcfg hstep
  rw [step_activate h, activate_accepted hcfg] at hstep
  cases hstep
  exact ⟨fun a ha => @getD_find_load .rom _ a ha rom _, fun a ha => @getD_find_load .eep _ a ha eep 0,
    fun a => @memRead_of_nil .ram _ rfl a, fun a => @memRead_of_nil .shadow _ rfl a⟩

end Sys2Proof.Proofs
end

section
/-!
PROOF. The operations one by one (40_cycle, 41_simple_bank, 42_easyflash, 43_gmod2, 44_freezer, 46_video_window): the byte a
read drives, the byte a RAM write stores, and the registers as whole states.
-/

namespace Sys2Proof.Machine

open Sys2Proof.Claims

/-! ### Numbers of a byte -/

theorem getLsbD_eq_bit (d : Byte) (k : Nat) : d.getLsbD k = bit d k := Nat.testBit_eq_decide_div_mod_eq

/-- A field of a byte as arithmetic on its number (30_encoding R103). -/
theorem byteField_eq (v : Byte) (lo len : Nat) : byteField v lo len = v.toNat / 2 ^ lo % 2 ^ len := by
  rw [byteField, BitVec.extractLsb'_toNat, Nat.shiftRight_eq_div_pow]

theorem extract_eq_iff (d : Byte) (lo len : Nat) (x : BitVec len) :
    d.extractLsb' lo len = x ↔ d.toNat / 2 ^ lo % 2 ^ len = x.toNat := by
  rw [← BitVec.toNat_inj, BitVec.extractLsb'_toNat, Nat.shiftRight_eq_div_pow]

/-- A page in the high bits and an offset in the low eight add up. -/
theorem pageOffset_eq {page : Offset} {k : Nat} (hpage : page.toNat = k <<< 8) (al : Byte) :
    pageOffset page al = BitVec.ofNat 13 (page.toNat + al.toNat) := by
  apply BitVec.eq_of_toNat_eq
  have hal : al.toNat < 2 ^ 8 := al.isLt
  have hor := (pageOffset page al).isLt
  have hsum : (pageOffset page al).toNat = page.toNat + al.toNat := by
    simp only [pageOffset, BitVec.toNat_or, BitVec.toNat_setWidth, hpage]
    rw [Nat.mod_eq_of_lt (by omega), Nat.shiftLeft_add_eq_or_of_lt hal]
  rw [BitVec.toNat_ofNat, ← hsum, Nat.mod_eq_of_lt hor]

theorem pageOffset_1F00 (al : Byte) : pageOffset 0x1F00 al = BitVec.ofNat 13 (0x1F00 + al.toNat) :=
  @pageOffset_eq 0x1F00 0x1F rfl al

theorem pageOffset_1E00 (al : Byte) : pageOffset 0x1E00 al = BitVec.ofNat 13 (0x1E00 + al.toNat) :=
  @pageOffset_eq 0x1E00 0x1E rfl al

theorem pageOffset_1F00_toNat (al : Byte) : (pageOffset 0x1F00 al).toNat = 0x1F00 + al.toNat := by
  have hal : al.toNat < 256 := al.isLt
  rw [pageOffset_1F00, BitVec.toNat_ofNat, Nat.mod_eq_of_lt (by omega)]

/-- The RAM index of SUPERSNAPSHOT5 is a sum (44_freezer section 4). -/
theorem ramIdx_eq_ssRam {s : State} (hv : s.cfg.variant = .supersnapshot5) (off : Offset) :
    ramIdx s off = ssRam s off := by
  have hoff : off.toNat < 2 ^ 13 := off.isLt
  rw [ramIdx, ramSize_supersnapshot5 hv, ← Nat.shiftLeft_add_eq_or_of_lt hoff, Nat.shiftLeft_eq]
  rfl

/-! ### Reads -/

theorem drives_driveOption (o : Option Byte) (s : State) :
    (.next (driveOption o s) : Host.Outcome State Fault Refusal) = .next { s with drive := o.or s.drive } :=
  congrArg _ (driveOption_eq o s)

theorem romRead_eq_gatedRom (b : Byte) (w : RomWindow) (off : Offset) (s : State) :
    romRead b w off s = { s with drive := (gatedRom s b w off).or s.drive } := by
  rw [romRead_eq, driveOption_eq, romReadByte_eq_gatedRom]

theorem drives_romRead (b : Byte) (w : RomWindow) (off : Offset) (s : State) :
    (.next (romRead b w off s) : Host.Outcome State Fault Refusal) =
      .next { s with drive := (gatedRom s b w off).or s.drive } :=
  congrArg _ (romRead_eq_gatedRom b w off s)

theorem drives_mirroredRom (off : Offset) (s : State) :
    (.next (romReadHiOrMirror s.reg.bank off s) : Host.Outcome State Fault Refusal) =
      .next { s with drive := (mirroredRom s off).or s.drive } := by
  rw [romReadHiOrMirror_eq, hiOrMirrorByte_eq_mirroredRom, drives_driveOption]

theorem drives_arRomhR (off : Offset) (s : State) : Drives (.arRomhR off) s (actionReplayHigh s off) := by
  rw [← arRomhByte_eq_actionReplayHigh]
  exact drives_driveOption _ s

theorem drives_ramOrRom (i : Nat) (off : Offset) (s : State) :
    (.next (ramOrRomRead i off s) : Host.Outcome State Fault Refusal) =
      .next { s with drive := (ramOrRom s i off).or s.drive } := by
  rw [ramOrRomRead_eq, romReadByte_eq_gatedRom, drives_driveOption]
  simp only [ramOrRom, Bool.and_eq_true]

theorem drives_ssIo1R (al : Byte) (s : State) :
    Drives (.ssIo1R al) s (gatedRom s s.reg.bank .l (BitVec.ofNat 13 (0x1E00 + al.toNat))) := by
  have hread : exec (.ssIo1R al) s = .next (romRead s.reg.bank .l (pageOffset 0x1E00 al) s) := rfl
  rw [Drives, hread, drives_romRead, pageOffset_1E00]

theorem drives_epIo2R (al : Byte) (s : State) :
    Drives (.epIo2R al) s
      (if s.cfg.hasL = true then some (romAt s 0 .l (BitVec.ofNat 13 (0x1F00 + al.toNat))) else none) := by
  rw [← pageOffset_1F00]
  show Host.Outcome.next (if s.cfg.hasL = true then _ else _) = _
  split <;> rfl

theorem drives_gmIo1R (al : Byte) (s : State) :
    Drives (.gmIo1R al) s (some (if s.eepi.cs = true ∧ s.eepi.dOut = true then 0x80 else 0x00)) := by
  have hbyte : (BitVec.ofBool (s.eepi.cs && s.eepi.dOut)).setWidth 8 <<< 7 =
      (if s.eepi.cs = true ∧ s.eepi.dOut = true then 0x80 else 0x00 : Byte) := by
    cases s.eepi.cs <;> cases s.eepi.dOut <;> decide
  rw [← hbyte]
  rfl

/-! ### Reads run twice -/

/-- A read that only drives, and drives the same byte again when it is run on the state it left with the outputs cleared. -/
theorem drive_twice {i : Instr} {s t u : State} {o : Option Byte} (hs : s.drive = none) (ht : exec i s = .next t)
    (hu : exec i (beginInvocation t) = .next u) (hfirst : Drives i s o)
    (hsecond : Drives i (beginInvocation { s with drive := o.or s.drive }) o) : u.drive = t.drive := by
  cases hfirst.symm.trans ht
  cases hsecond.symm.trans hu
  show o.or none = o.or s.drive
  rw [hs]

/-- The byte of a read of bank 0 does not depend on BANK, on the controller or on the countdown. -/
theorem gatedRom_zero_congr {s t : State} (hcfg : t.cfg = s.cfg) (hno : t.sessionNo = s.sessionNo)
    (hen : t.reg.carten = s.reg.carten) (hrom : t.rom = s.rom) (w : RomWindow) (off : Offset) :
    gatedRom t 0 w off = gatedRom s 0 w off := by
  simp only [gatedRom, romAt, memRead_congr .rom hno hrom, hcfg, hen]

theorem epRomlR_eq (off : Offset) (s : State) :
    exec (.epRomlR off) s =
      .next (if s.reg.carten = true then rearmed { s with drive := (gatedRom s 0 .l off).or s.drive } else s) := by
  show Host.Outcome.next (if s.reg.carten = true then _ else _) = _
  cases hen : s.reg.carten with
  | true =>
    rw [if_pos rfl, if_pos rfl, romRead_eq_gatedRom, rearmCap, rearmed]
    cases s.cfg.autoDisableCycles <;> rfl
  | false =>
    rw [if_neg Bool.false_ne_true, if_neg Bool.false_ne_true, romRead_eq_gatedRom, gatedRom, if_neg (by simp [hen])]
    rfl

theorem epRomlR_drive {off : Offset} {s t : State} (hs : s.drive = none) (h : exec (.epRomlR off) s = .next t) :
    t.drive = gatedRom s 0 .l off := by
  rw [epRomlR_eq] at h
  cases h
  split
  · simp [rearmed, hs]
  next hen => rw [hs, gatedRom, if_neg (by simp [hen])]

theorem zxRomlR_eq (off : Offset) (s : State) :
    exec (.zxRomlR off) s =
      .next (selectBank (off.getLsbD 12).toNat { s with drive := (gatedRom s 0 .l off).or s.drive }) :=
  congrArg (fun r => Host.Outcome.next (selectBank (off.getLsbD 12).toNat r)) (romRead_eq_gatedRom 0 .l off s)

theorem zxRomlR_drive {off : Offset} {s t : State} (hs : s.drive = none) (h : exec (.zxRomlR off) s = .next t) :
    t.drive = gatedRom s 0 .l off := by
  rw [zxRomlR_eq] at h
  cases h
  simp [hs]

/-! ### RAM writes -/

theorem writesRam_of_memWrite {i : Instr} {s : State} {a : Nat} {d : Byte}
    (h : exec i s = .next (memWrite .ram a d s)) : WritesRam i s a d :=
  ⟨_, h, rfl, fun b => by simp [memRead_memWrite]⟩

theorem ramWrite_enabled {s : State} (h : s.reg.carten = true ∧ s.reg.ramexp = true) (a : Nat) (d : Byte) :
    ramWrite a d s = memWrite .ram a d s := by
  rw [ramWrite, if_pos (by simp [h])]

theorem ramWrite_ignored {s : State} (h : ¬(s.reg.carten = true ∧ s.reg.ramexp = true)) (a : Nat) (d : Byte) :
    ramWrite a d s = s := by
  rw [ramWrite, if_neg (by simpa using h)]

theorem exec_arRomhW (off : Offset) (d : Byte) (s : State) :
    exec (.arRomhW off d) s =
      .next (if s.reg.carten = true ∧ AtomicRam s then memWrite .ram off.toNat d s else s) := by
  simp only [← atomicRam_iff, ← Bool.and_eq_true]
  rfl

/-! ### Registers -/

/-- `SetBank` of a number reduced, in the words of the statements. -/
theorem selectBank_eq_switched (n : Nat) (s : State) : selectBank n s = switched n s := rfl

theorem setCtrl_eq_ctrlWritten (d : Byte) (s : State) : setCtrl d s = ctrlWritten d s := rfl

theorem setRamexp_eq_ramexpWritten (b : Bool) (s : State) : setRamexp b s = ramexpWritten b s := rfl

theorem disable_eq_mapped (s : State) : disable s = mapped false modeOff s := rfl

theorem enableWith_eq_mapped (m : MapMode) (s : State) : enableWith m s = mapped true m s := rfl

theorem setMap_eq_linesSet (m : MapMode) (s : State) : setMap m s = linesSet m s := rfl

theorem bit_seven_iff (d : Byte) : bit d 7 = true ↔ ¬d.toNat < 128 := by
  have hd := d.isLt
  simp only [bit, decide_eq_true_eq]
  omega

/-- The mode field of COMAL80 as the three high bits (41_simple_bank R182). -/
theorem comalMode_eq (d : Byte) :
    comalMode d = if d.toNat / 32 = 7 then none else if d.toNat / 32 = 2 then some modeM8k else some modeM16k := by
  have hd : d.toNat / 2 ^ 5 % 2 ^ 3 = d.toNat / 32 := by
    have := d.isLt
    omega
  simp only [comalMode, extract_eq_iff, hd]
  rfl

/-- The mode table of EASYFLASH follows a law: the jumper stands in for bit 0 while bit 2 is clear (30_encoding R112). -/
theorem efMode_law (j : Bool) (x : BitVec 3) :
    efMode (BitVec.ofBool j ++ x) = ⟨if x.getLsbD 2 = true then x.getLsbD 0 else j, x.getLsbD 1⟩ := by
  revert j x
  decide

theorem efMode_efIndex (j : Bool) (d : Byte) :
    efMode (efIndex j d) = ⟨if bit d 2 = true then bit d 0 else j, bit d 1⟩ := by
  rw [efIndex, efMode_law]
  simp only [BitVec.getLsbD_extractLsb', Nat.zero_add, getLsbD_eq_bit]
  rfl

theorem atomicBits_iff (cfg : Cfg) (d : Byte) :
    atomicBits cfg d = true ↔ cfg.arAtomic = true ∧ bit d 5 = true ∧ d.toNat % 4 = 2 := by
  have hlow : d.extractLsb' 0 2 = 0b10#2 ↔ d.toNat % 4 = 2 := by
    rw [extract_eq_iff, Nat.pow_zero, Nat.div_one]
    rfl
  simp only [atomicBits, Bool.and_eq_true, decide_eq_true_eq, hlow, getLsbD_eq_bit, and_assoc]

/-- The two bank bits of SUPERSNAPSHOT5, bits 2 and 4 of the byte (44_freezer R300). -/
theorem ssBankField_eq (d : Byte) : ssBankField d = d.toNat / 4 % 2 + d.toNat / 16 % 2 * 2 := by
  simp only [ssBankField, getLsbD_eq_bit, bit]
  rcases Nat.mod_two_eq_zero_or_one (d.toNat / 2 ^ 2) with h2 | h2 <;>
    rcases Nat.mod_two_eq_zero_or_one (d.toNat / 2 ^ 4) with h4 | h4 <;> simp_all

theorem exec_mdIo1W (al d : Byte) (s : State) :
    exec (.mdIo1W al d) s = .next
      (if d.toNat < 128 then mapped true (mapDefault s.cfg) (switched d.toNat (ctrlWritten d s))
       else mapped false modeOff (ctrlWritten d s)) := by
  show Host.Outcome.next (if d.getLsbD 7 = true then _ else _) = _
  rw [getLsbD_eq_bit]
  by_cases h : d.toNat < 128
  · have hfield : byteField d 0 7 = d.toNat := by
      rw [byteField_eq]
      omega
    rw [if_neg (by rw [bit_seven_iff]; omega), if_pos h, hfield]
    rfl
  · rw [if_pos ((bit_seven_iff d).mpr h), if_neg h]
    rfl

theorem exec_coIo1W (al d : Byte) (s : State) :
    exec (.coIo1W al d) s = .next
      (if d.toNat / 32 = 7 then mapped false modeOff (switched (d.toNat % 4) (ctrlWritten d s))
       else if d.toNat / 32 = 2 then mapped true modeM8k (switched (d.toNat % 4) (ctrlWritten d s))
       else mapped true modeM16k (switched (d.toNat % 4) (ctrlWritten d s))) := by
  have hfield : byteField d 0 2 = d.toNat % 4 := by
    rw [byteField_eq]
    omega
  by_cases h7 : d.toNat / 32 = 7
  · simp only [exec, execCoIo1W, comalMode_eq, hfield, if_pos h7]
    rfl
  · by_cases h2 : d.toNat / 32 = 2
    · simp only [exec, execCoIo1W, comalMode_eq, hfield, if_neg h7, if_pos h2]
      rfl
    · simp only [exec, execCoIo1W, comalMode_eq, hfield, if_neg h7, if_neg h2]
      rfl

theorem exec_huIo1W (al d : Byte) (s : State) :
    exec (.huIo1W al d) s = .next
      (if s.reg.carten = true then
        if bit d 3 = true then mapped false modeOff (switched (d.toNat % 8) (ctrlWritten d s))
        else switched (d.toNat % 8) (ctrlWritten d s)
       else s) := by
  have hfield : byteField d 0 3 = d.toNat % 8 := by
    rw [byteField_eq]
    omega
  simp only [exec, execHuIo1W, getLsbD_eq_bit, hfield]
  rfl

theorem exec_prIo2W (al d : Byte) (s : State) :
    exec (.prIo2W al d) s = .next
      (if bit d 5 = true then mapped false modeOff (switched (d.toNat % 32) (ctrlWritten d s))
       else mapped true (mapDefault s.cfg) (switched (d.toNat % 32) (ctrlWritten d s))) := by
  have hfield : byteField d 0 5 = d.toNat % 32 := by
    rw [byteField_eq]
    omega
  simp only [exec, execPrIo2W, getLsbD_eq_bit, hfield]
  rfl

/-- A bank number in the six low bits of a byte. -/
theorem byteField_six (v : Byte) : byteField v 0 6 = v.toNat % 64 := by
  rw [byteField_eq]
  omega

theorem byteField_four (v : Byte) : byteField v 0 4 = v.toNat % 16 := by
  rw [byteField_eq]
  omega

/-- Address bit 12 as a number (41_simple_bank R196). -/
theorem bit12_toNat (off : Offset) : (off.getLsbD 12).toNat = if off.toNat < 4096 then 0 else 1 := by
  have hoff := off.isLt
  have hbit : off.getLsbD 12 = decide (off.toNat / 2 ^ 12 % 2 = 1) := Nat.testBit_eq_decide_div_mod_eq
  rw [hbit]
  split
  next h => rw [decide_eq_false (by omega)]; rfl
  next h => rw [decide_eq_true (by omega)]; rfl

/-- The low twelve bits of an offset (log 16). -/
theorem and_0FFF (off : Offset) : off &&& 0x0FFF = BitVec.ofNat 13 (off.toNat % 4096) := by
  apply BitVec.eq_of_toNat_eq
  have hmod : off.toNat &&& 4095 = off.toNat % 4096 := Nat.and_two_pow_sub_one_eq_mod off.toNat 12
  rw [BitVec.toNat_and, BitVec.toNat_ofNat, Nat.mod_eq_of_lt (by omega)]
  exact hmod

theorem exec_arIo1W (al d : Byte) (s : State) :
    exec (.arIo1W al d) s = .next
      (if s.reg.carten = true then
        let u := ramexpWritten (bit d 5) (switched (d.toNat / 8 % 4) (ctrlWritten d s))
        if bit d 2 = true then mapped false modeOff u
        else if s.cfg.arAtomic = true ∧ bit d 5 = true ∧ d.toNat % 4 = 2 then linesSet modeM16k u
        else linesSet ⟨bit d 0, !bit d 1⟩ u
       else s) := by
  have hfield : byteField d 3 2 = d.toNat / 8 % 4 := byteField_eq d 3 2
  simp only [exec, execArIo1W, arMode, atomicBits_iff, getLsbD_eq_bit, hfield]
  split
  · split
    · rfl
    · split <;> rfl
  · rfl

theorem exec_ssIo1W (al d : Byte) (s : State) :
    exec (.ssIo1W al d) s = .next
      (if s.reg.carten = true then
        let u := ramexpWritten (!bit d 1) (switched (d.toNat / 4 % 2 + d.toNat / 16 % 2 * 2) (ctrlWritten d s))
        if bit d 3 = true then mapped false modeOff u else linesSet ⟨!bit d 0, bit d 1⟩ u
       else s) := by
  simp only [exec, execSsIo1W, ssMode, getLsbD_eq_bit, ssBankField_eq]
  rfl

theorem epIo1R_eq (al : Byte) (s : State) :
    exec (.epIo1R al) s = .next (rearmed (mapped true (mapDefault s.cfg) s)) := by
  show Host.Outcome.next (rearmCap (mapped true (mapDefault s.cfg) s)) = _
  have hauto : (mapped true (mapDefault s.cfg) s).cfg.autoDisableCycles = s.cfg.autoDisableCycles := rfl
  rw [rearmCap, rearmed, hauto]
  cases s.cfg.autoDisableCycles <;> rfl

end Sys2Proof.Machine

namespace Sys2Proof.Proofs

open Sys2Proof.Machine Sys2Proof.Claims

/-- Settles O15, by the table of the variants. -/
theorem videoOperationsOnlyDrive : Obligations.VideoOperationsOnlyDrive :=
  fun s off => ⟨exec_vidRomhR off s, rfl, rfl, rfl⟩

/-- Settles O17: the ROM-high row of each variant drives the byte of the table. -/
theorem videoByteIsTheCpuRomHighByte : Obligations.VideoByteIsTheCpuRomHighByte := by
  intro s S hvid hrw hromh
  have hwin : S.win = .romh := (win_eq_romh_iff S).mpr hromh
  have hdecode (v : Variant) : decodeSample v S = decodeVariant v S := if_neg (by simp [hvid])
  rw [exec_vidRomhR, hdecode]
  cases hv : s.cfg.variant <;> simp only [videoHigh, hv, decodeVariant, hwin, hrw]
  case fixed | simons | ocean | comal80 | easyflash | zaxxon => exact (drives_romRead _ _ _ s).symm
  case freezeframe | supersnapshot5 => exact (drives_mirroredRom _ s).symm
  case actionreplay => exact (drives_arRomhR _ s).symm
  all_goals rfl

/-- Settles O18: four reads of bank 0. -/
theorem fixedBankReads : Obligations.FixedBankReads :=
  fun s off => ⟨drives_romRead 0 .l off s, drives_romRead 0 .h off s, drives_romRead 0 .l off s,
    drives_romRead 0 .h off s⟩

/-- Settles O19: each listed operation is the read of the active bank. -/
theorem activeBankReads : Obligations.ActiveBankReads := by
  intro s off
  constructor
  · intro i hi
    simp only [List.mem_cons, List.not_mem_nil, or_false] at hi
    rcases hi with rfl | rfl | rfl | rfl | rfl | rfl | rfl | rfl | rfl | rfl | rfl <;>
      exact drives_romRead s.reg.bank .l off s
  · intro i hi
    simp only [List.mem_cons, List.not_mem_nil, or_false] at hi
    rcases hi with rfl | rfl | rfl <;> exact drives_romRead s.reg.bank .h off s

/-- Settles O20, by the mirrored read and the AtomicPower case. -/
theorem freezerRomHighReads : Obligations.FreezerRomHighReads :=
  fun s off => ⟨drives_mirroredRom off s, drives_mirroredRom off s, drives_arRomhR off s⟩

/-- Settles O21: the shared window read at the indices the operands form. -/
theorem ramOrRomReads : Obligations.RamOrRomReads := by
  intro s off al
  refine ⟨drives_ramOrRom _ off s, ?_, fun hv => ?_, drives_ssIo1R al s⟩
  · rw [← pageOffset_1F00, ← pageOffset_1F00_toNat]
    exact drives_ramOrRom _ _ s
  · rw [← ramIdx_eq_ssRam hv]
    exact drives_ramOrRom _ off s

/-- Settles O22, one read after another. -/
theorem ungatedIoReads : Obligations.UngatedIoReads :=
  fun s al => ⟨drives_epIo2R al s, rfl, drives_gmIo1R al s⟩

/-- Settles O23: a read that only drives does so again; the two with a side effect answer from bank 0, which it leaves. -/
theorem romReadsAreIdempotent : Obligations.RomReadsAreIdempotent := by
  intro i s t u hi hs ht hu
  cases i with
  | epRomlR off =>
    rw [epRomlR_drive rfl hu, epRomlR_drive hs ht]
    rw [epRomlR_eq] at ht
    cases ht
    split <;> rfl
  | zxRomlR off =>
    rw [zxRomlR_drive rfl hu, zxRomlR_drive hs ht]
    rw [zxRomlR_eq] at ht
    cases ht
    exact gatedRom_zero_congr (by simp) (by simp) (by simp) (by simp) .l off
  | fxRomlR | fxRomhR | mdRomlR | gsRomlR | ocRomlR | ocRomhR | coRomlR | coRomhR | huRomlR | prRomlR | sbRomlR
  | sbRomhR | diRomlR | zxRomhR | efRomlR | efRomhR | gmRomlR | ffRomlR =>
    exact drive_twice hs ht hu (drives_romRead _ _ _ s) (drives_romRead _ _ _ _)
  | ffRomhR | ssRomhR =>
    exact drive_twice hs ht hu (drives_mirroredRom _ s) (drives_mirroredRom _ _)
  | arRomhR off => exact drive_twice hs ht hu (drives_arRomhR off s) (drives_arRomhR off _)
  | arRomlR | ssRomlR =>
    exact drive_twice hs ht hu (drives_ramOrRom _ _ s) (drives_ramOrRom _ _ _)
  | _ => cases hi

/-- Settles O25: the write of one RAM byte, where the window takes it. -/
theorem ramWrites : Obligations.RamWrites := by
  intro s off al d
  refine ⟨writesRam_of_memWrite rfl, fun hshown => ⟨?_, ?_, fun hv => ?_⟩, fun hhidden => ?_, fun hshown => ?_,
    fun hhidden => ?_⟩
  · exact writesRam_of_memWrite (congrArg _ (ramWrite_enabled hshown _ d))
  · rw [← pageOffset_1F00_toNat]
    exact writesRam_of_memWrite (congrArg _ (ramWrite_enabled hshown _ d))
  · rw [← ramIdx_eq_ssRam hv]
    exact writesRam_of_memWrite (congrArg _ (ramWrite_enabled hshown _ d))
  · intro i hi
    simp only [List.mem_cons, List.not_mem_nil, or_false] at hi
    rcases hi with rfl | rfl | rfl <;> exact congrArg _ (ramWrite_ignored hhidden _ d)
  · exact writesRam_of_memWrite (by rw [exec_arRomhW, if_pos hshown])
  · rw [exec_arRomhW, if_neg hhidden]

/-- Settles O33: each register as a whole state, its bank field as a number. -/
theorem dataBankRegisters : Obligations.DataBankRegisters := by
  intro s al d
  refine ⟨exec_mdIo1W al d s, ?_, exec_coIo1W al d s, exec_huIo1W al d s, exec_prIo2W al d s, ?_⟩
  · rw [← byteField_six]
    rfl
  · rw [← byteField_six]
    rfl

/-- Settles O34: the address field as a number; the mask of ZAXXON keeps twelve bits. -/
theorem addressBankRegisters : Obligations.AddressBankRegisters := by
  intro s off al d
  refine ⟨?_, rfl, ?_, ?_, fun hv hen hdata => ?_⟩
  · rw [← byteField_six]
    rfl
  · rw [← byteField_four]
    rfl
  · rw [zxRomlR_eq, bit12_toNat]
    rfl
  · rw [gatedRom, if_pos ⟨hen, hdata⟩, romAt, offMask_l_zaxxon hv, and_0FFF]

/-- Settles O35: four accesses with their literal lines, and the law of the EASYFLASH mode table. -/
theorem mappingAccesses : Obligations.MappingAccesses := by
  intro s al d
  refine ⟨rfl, rfl, rfl, rfl, ?_⟩
  rw [← efMode_efIndex]
  rfl

/-- Settles O36, from the enabled and the disabled read. -/
theorem epyxQualifyingReads : Obligations.EpyxQualifyingReads :=
  fun s off al => ⟨epRomlR_eq off s, epIo1R_eq al s⟩

/-- Settles O37: both control registers as whole states. -/
theorem freezerControlRegisters : Obligations.FreezerControlRegisters :=
  fun s al d => ⟨exec_arIo1W al d s, exec_ssIo1W al d s⟩

end Sys2Proof.Proofs
end

section
/-!
PROOF. The flash command machine of EASYFLASH (42_easyflash R226 to R230, 45_memory_mux_dma R331): one write in each command
state, the program stream and the sector erase.
-/

namespace Sys2Proof.Machine

open Sys2Proof.Claims

/-! ### The protocol state of a window -/

section
variable (w : RomWindow) (f g : FlashState) (s : State)

theorem flashOf_setFlash : flashOf (setFlash w f s) w = f := by
  cases w <;> rfl

theorem setFlash_setFlash : setFlash w g (setFlash w f s) = setFlash w g s := by
  cases w <;> rfl

theorem setFlash_of_flashOf {s : State} (h : flashOf s w = f) : setFlash w f s = s := by
  subst h
  cases w <;> rfl

theorem memRead_setFlash (sp : Space) (i : Nat) : memRead sp i (setFlash w f s) = memRead sp i s := by
  cases w <;> cases sp <;> rfl

theorem flashProgram_setFlash (b : Byte) (off : Offset) (v : Byte) :
    flashProgram b w off v (setFlash w f s) = setFlash w f (flashProgram b w off v s) := by
  cases w <;> rfl

theorem sectorErase_setFlash (b : Byte) : sectorErase w b (setFlash w f s) = setFlash w f (sectorErase w b s) := by
  cases w <;> rfl

end

/-! ### One write -/

theorem and_7FF (off : Offset) : (off &&& 0x7FF).toNat = off.toNat % 2048 := by
  rw [BitVec.toNat_and]
  exact Nat.and_two_pow_sub_one_eq_mod off.toNat 11

theorem at555_iff {off : Offset} {d v : Byte} : (flashAt off 0x555 && d = v) = true ↔ atFlA off ∧ d = v := by
  rw [Bool.and_eq_true_iff, decide_eq_true_iff, flashAt, decide_eq_true_iff, ← BitVec.toNat_inj, and_7FF]
  rfl

theorem at2AA_iff {off : Offset} {d v : Byte} : (flashAt off 0x2AA && d = v) = true ↔ atFlB off ∧ d = v := by
  rw [Bool.and_eq_true_iff, decide_eq_true_iff, flashAt, decide_eq_true_iff, ← BitVec.toNat_inj, and_7FF]
  rfl

theorem exec_flashInstr (w : RomWindow) (off : Offset) (d : Byte) (s : State) :
    exec (flashInstr w off d) s = .next (flashWindowWrite w off d s) := by
  cases w <;> rfl

theorem exec_flashInstr_ignored {w : RomWindow} {s : State} (h : s.reg.carten = false ∨ hasWindow s.cfg w = false)
    (off : Offset) (d : Byte) : exec (flashInstr w off d) s = .next s := by
  rw [exec_flashInstr, flashWindowWrite, if_neg]
  rcases h with h | h <;> simp [h]

/-- The cartridge takes writes to this window: it is enabled, and the image has data for it. -/
def FlashEnabled (w : RomWindow) (s : State) : Prop := s.reg.carten = true ∧ hasWindow s.cfg w = true

theorem FlashEnabled.setFlash {w : RomWindow} {s : State} (h : FlashEnabled w s) (f : FlashState) :
    FlashEnabled w (setFlash w f s) := by
  rwa [FlashEnabled, setFlash_reg, setFlash_cfg]

section
variable {w : RomWindow} {off : Offset} {d : Byte} {s : State}

theorem FlashEnabled.exec (h : FlashEnabled w s) : exec (flashInstr w off d) s = .next (flashWrite w off d s) := by
  obtain ⟨hen, hwin⟩ := h
  rw [exec_flashInstr, flashWindowWrite, hen, hwin]
  rfl

/-! The write that continues the stream in each command state, and what any other does. -/

theorem flashWrite_read (hf : flashOf s w = .read) :
    (atFlA off ∧ d = 0xAA → flashWrite w off d s = setFlash w .u1 s) ∧
      (¬(atFlA off ∧ d = 0xAA) → flashWrite w off d s = s) := by
  simp only [flashWrite, hf]
  exact ⟨fun h => if_pos (at555_iff.mpr h), fun h => if_neg (mt at555_iff.mp h)⟩

theorem flashWrite_u1 (hf : flashOf s w = .u1) :
    (atFlB off ∧ d = 0x55 → flashWrite w off d s = setFlash w .u2 s) ∧
      (¬(atFlB off ∧ d = 0x55) → flashWrite w off d s = setFlash w .read s) := by
  simp only [flashWrite, hf]
  exact ⟨fun h => by rw [if_pos (at2AA_iff.mpr h)], fun h => by rw [if_neg (mt at2AA_iff.mp h)]⟩

theorem flashWrite_u2 (hf : flashOf s w = .u2) :
    (atFlA off ∧ d = 0xA0 → flashWrite w off d s = setFlash w .program s) ∧
      (atFlA off ∧ d = 0x80 → flashWrite w off d s = setFlash w .eraseArm s) ∧
      (¬(atFlA off ∧ (d = 0xA0 ∨ d = 0x80)) → flashWrite w off d s = setFlash w .read s) := by
  simp only [flashWrite, hf]
  refine ⟨fun h => by rw [if_pos (at555_iff.mpr h)], fun ⟨hA, hd⟩ => ?_, fun h => ?_⟩
  · have hprogram : ¬(atFlA off ∧ d = 0xA0) := fun ⟨_, hd'⟩ => absurd (hd.symm.trans hd') (by decide)
    rw [if_neg (mt at555_iff.mp hprogram), if_pos (at555_iff.mpr ⟨hA, hd⟩)]
  · rw [if_neg (mt at555_iff.mp fun ⟨hA, hd⟩ => h ⟨hA, .inl hd⟩),
      if_neg (mt at555_iff.mp fun ⟨hA, hd⟩ => h ⟨hA, .inr hd⟩)]

theorem flashWrite_program (hf : flashOf s w = .program) :
    flashWrite w off d s = setFlash w .read (flashProgram s.reg.bank w off d s) := by
  simp only [flashWrite, hf]

theorem flashWrite_eraseArm (hf : flashOf s w = .eraseArm) :
    (atFlA off ∧ d = 0xAA → flashWrite w off d s = setFlash w .e1 s) ∧
      (¬(atFlA off ∧ d = 0xAA) → flashWrite w off d s = setFlash w .read s) := by
  simp only [flashWrite, hf]
  exact ⟨fun h => by rw [if_pos (at555_iff.mpr h)], fun h => by rw [if_neg (mt at555_iff.mp h)]⟩

theorem flashWrite_e1 (hf : flashOf s w = .e1) :
    (atFlB off ∧ d = 0x55 → flashWrite w off d s = setFlash w .e2 s) ∧
      (¬(atFlB off ∧ d = 0x55) → flashWrite w off d s = setFlash w .read s) := by
  simp only [flashWrite, hf]
  exact ⟨fun h => by rw [if_pos (at2AA_iff.mpr h)], fun h => by rw [if_neg (mt at2AA_iff.mp h)]⟩

theorem flashWrite_e2 (hf : flashOf s w = .e2) :
    (d = 0x30 → flashWrite w off d s = setFlash w .read (sectorErase w s.reg.bank s)) ∧
      (d ≠ 0x30 → flashWrite w off d s = setFlash w .read s) := by
  simp only [flashWrite, hf]
  exact ⟨fun h => by rw [if_pos h], fun h => by rw [if_neg h]⟩

end

/-! ### Program -/

section
variable (b : Byte) (w : RomWindow) (off : Offset) (v : Byte) (s : State)

theorem romAt_flashProgram : romAt (flashProgram b w off v s) b w off = romAt s b w off &&& v := by
  rw [romAt, flashProgram_cfg, memRead_flashProgram, if_pos ⟨rfl, rfl⟩]
  rfl

theorem romOutside_flashProgram :
    romOutside (fun b' w' o => b' = b ∧ w' = w ∧ o = off &&& offMask s.cfg w) s (flashProgram b w off v s) := by
  intro b' w' o hother
  rw [memRead_flashProgram, if_neg]
  rintro ⟨-, hi⟩
  exact hother ((romIndex_inj ..).mp hi)

end

theorem romAt_setFlash (w' : RomWindow) (f : FlashState) (s : State) (b : Byte) (w : RomWindow) (off : Offset) :
    romAt (setFlash w' f s) b w off = romAt s b w off := by
  rw [romAt, memRead_setFlash, setFlash_cfg]
  rfl

/-! ### Sector erase -/

/-- A fold of bank erases: every cell of the window in the listed banks holds 0xFF, every other cell is as it was. -/
theorem find_foldl_eraseBank (w : RomWindow) (b : Byte) (w' : RomWindow) (o : Offset) (banks : List Nat) (m : Memory)
    (hbyte : ∀ n ∈ banks, n < 256) :
    Memory.find (romIndex b w' o) (banks.foldl (eraseBank w) m) =
      if w' = w ∧ b.toNat ∈ banks then some 0xFF else Memory.find (romIndex b w' o) m := by
  induction banks generalizing m with
  | nil => simp
  | cons n banks ih =>
    have hn : (BitVec.ofNat 8 n).toNat = n := Nat.mod_eq_of_lt (hbyte n List.mem_cons_self)
    have hhit : romIndex (BitVec.ofNat 8 n) w 0 ≤ romIndex b w' o ∧
        romIndex b w' o < romIndex (BitVec.ofNat 8 n) w 0 + 8192 ↔ w' = w ∧ b.toNat = n := by
      have := o.isLt
      cases w <;> cases w' <;> simp [romIndex, hn] <;> omega
    rw [List.foldl_cons, ih _ fun k hk => hbyte k (List.mem_cons_of_mem _ hk), eraseBank, Memory.find_fillRange,
      if_congr hhit rfl rfl]
    by_cases hw : w' = w <;> by_cases hb : b.toNat = n <;> simp [hw, hb, fillOf]

/-- The banks of a sector (42_easyflash R230). -/
theorem mem_sectorBanks (cfg : Cfg) (b : Byte) (n : Nat) :
    n ∈ List.range' (sectorFirst cfg b) (sectorCount cfg b) ↔
      sectorFirst cfg b ≤ n ∧ n < sectorFirst cfg b + cfg.flashSectorBanks ∧ n < cfg.bankCount := by
  rw [List.mem_range'_1, sectorCount]
  omega

theorem memRead_sectorErase {s : State} {b : Byte} (hcount : s.cfg.bankCount ≤ 256)
    (w : RomWindow) (b' : Byte) (w' : RomWindow) (o : Offset) :
    memRead .rom (romIndex b' w' o) (sectorErase w b s) =
      if w' = w ∧ sectorFirst s.cfg b ≤ b'.toNat ∧ b'.toNat < sectorFirst s.cfg b + s.cfg.flashSectorBanks ∧
        b'.toNat < s.cfg.bankCount then 0xFF
      else memRead .rom (romIndex b' w' o) s := by
  have hbyte : ∀ n ∈ List.range' (sectorFirst s.cfg b) (sectorCount s.cfg b), n < 256 := fun n hn =>
    lt_of_lt_of_le ((mem_sectorBanks s.cfg b n).mp hn).2.2 hcount
  have hfind := find_foldl_eraseBank w b' w' o _ s.rom hbyte
  rw [if_congr (and_congr_right fun _ => mem_sectorBanks s.cfg b b'.toNat) rfl rfl] at hfind
  rw [sectorErase, memRead_emit]
  show (Memory.find _ (List.foldl ..)).getD _ = _
  rw [hfind]
  split <;> rfl

/-! ### Streams -/

theorem execAll_cons {i : Instr} {s t : State} (h : exec i s = .next t) (is : List Instr) :
    execAll (i :: is) s = execAll is t := by
  simp only [execAll, h]

section
variable {w : RomWindow} {s : State} (h : FlashEnabled w s) (hf : flashOf s w = .read)
include h

/-- One write of a stream, from the command state `f` to `g`. -/
theorem execAll_flashInstr {f g : FlashState} {off : Offset} {d : Byte} (is : List Instr)
    (hwrite : flashOf (setFlash w f s) w = f → flashWrite w off d (setFlash w f s) = setFlash w g (setFlash w f s)) :
    execAll (flashInstr w off d :: is) (setFlash w f s) = execAll is (setFlash w g s) := by
  rw [execAll_cons (h.setFlash f).exec, hwrite (flashOf_setFlash w f s), setFlash_setFlash]

include hf

/-- The two unlock writes (42_easyflash R228). -/
theorem execAll_flashUnlock {o1 o2 : Offset} (hA : atFlA o1) (hB : atFlB o2) (is : List Instr) :
    execAll (flashInstr w o1 0xAA :: flashInstr w o2 0x55 :: is) s = execAll is (setFlash w .u2 s) := by
  rw [execAll_cons (h.exec.trans (congrArg _ ((flashWrite_read hf).1 ⟨hA, rfl⟩))),
    execAll_flashInstr h is fun hu1 => (flashWrite_u1 hu1).1 ⟨hB, rfl⟩]

/-- The program stream is the masking write (42_easyflash R229). -/
theorem execAll_flashProgram {o1 o2 o3 : Offset} (hA : atFlA o1) (hB : atFlB o2) (hA' : atFlA o3) (off : Offset)
    (v : Byte) :
    execAll [flashInstr w o1 0xAA, flashInstr w o2 0x55, flashInstr w o3 0xA0, flashInstr w off v] s =
      .next (flashProgram s.reg.bank w off v s) := by
  have hback : flashOf (flashProgram s.reg.bank w off v s) w = .read := by rw [← hf]; cases w <;> rfl
  rw [execAll_flashUnlock h hf hA hB, execAll_flashInstr h _ fun hu2 => (flashWrite_u2 hu2).1 ⟨hA', rfl⟩,
    execAll_cons (h.setFlash .program).exec, flashWrite_program (flashOf_setFlash ..), flashProgram_setFlash,
    setFlash_setFlash, setFlash_reg, setFlash_of_flashOf _ _ hback, execAll]

/-- The erase stream is the sector erase (42_easyflash R230). -/
theorem execAll_sectorErase {o1 o2 o3 o4 o5 : Offset} (hA : atFlA o1) (hB : atFlB o2) (hA' : atFlA o3) (hA'' : atFlA o4)
    (hB' : atFlB o5) (off : Offset) :
    execAll [flashInstr w o1 0xAA, flashInstr w o2 0x55, flashInstr w o3 0x80, flashInstr w o4 0xAA, flashInstr w o5 0x55,
      flashInstr w off 0x30] s = .next (sectorErase w s.reg.bank s) := by
  have hback : flashOf (sectorErase w s.reg.bank s) w = .read := by rw [← hf]; cases w <;> rfl
  rw [execAll_flashUnlock h hf hA hB, execAll_flashInstr h _ fun hu2 => (flashWrite_u2 hu2).2.1 ⟨hA', rfl⟩,
    execAll_flashInstr h _ fun harm => (flashWrite_eraseArm harm).1 ⟨hA'', rfl⟩,
    execAll_flashInstr h _ fun he1 => (flashWrite_e1 he1).1 ⟨hB', rfl⟩,
    execAll_cons (h.setFlash .e2).exec, (flashWrite_e2 (flashOf_setFlash ..)).1 rfl, sectorErase_setFlash,
    setFlash_setFlash, setFlash_reg, setFlash_of_flashOf _ _ hback, execAll]

end

/-- The flash read drives the byte of the active bank in every command state (42_easyflash R220, R221, R231). -/
theorem drives_flashRead (w : RomWindow) (off : Offset) (s : State) :
    Drives (flashRead w off) s (gatedRom s s.reg.bank w off) := by
  cases w with
  | l => exact drives_romRead s.reg.bank .l off s
  | h => exact drives_romRead s.reg.bank .h off s

end Sys2Proof.Machine

namespace Sys2Proof.Proofs

open Sys2Proof.Machine
open Sys2Proof.Claims

/-- Settles O39, one command state after the other. -/
theorem flashCommandMachine : Obligations.FlashCommandMachine := by
  intro s w off d
  refine ⟨fun h => exec_flashInstr_ignored h off d, fun hen hwin => ?_⟩
  have hexec := @FlashEnabled.exec w off d s ⟨hen, hwin⟩
  simp only [hexec, Host.Outcome.next.injEq]
  refine ⟨flashWrite_read, flashWrite_u1, flashWrite_u2, fun hf => ?_, flashWrite_eraseArm, flashWrite_e1,
    fun hf => (flashWrite_e2 hf).2⟩
  refine ⟨_, flashWrite_program hf, ?_, fun b w' o hother => ?_, ?_⟩
  · rw [romAt_setFlash, romAt_flashProgram]
  · rw [memRead_setFlash, romOutside_flashProgram _ _ _ _ _ b w' o hother]
  · cases w <;> rfl

/-- Settles O40: the stream is the masking write of `execAll_flashProgram`. -/
theorem flashProgramRoundTrip : Obligations.FlashProgramRoundTrip := by
  intro s w o1 o2 o3 off v hf hwin hen hA hB hA'
  refine ⟨_, execAll_flashProgram ⟨hen, hwin⟩ hf hA hB hA' off v, flashProgram_eq ..,
    romOutside_flashProgram s.reg.bank w off v s, ?_⟩
  have hgated : gatedRom (flashProgram s.reg.bank w off v s) s.reg.bank w off = some (romAt s s.reg.bank w off &&& v) := by
    rw [gatedRom, flashProgram_reg, flashProgram_cfg, if_pos ⟨hen, hwin⟩, romAt_flashProgram]
  exact hgated ▸ drives_flashRead w off (flashProgram s.reg.bank w off v s)

/-- Settles O41: the stream is the sector erase of `execAll_sectorErase`, read back by `memRead_sectorErase`. -/
theorem sectorEraseFillsTheSector : Obligations.SectorEraseFillsTheSector := by
  intro s w o1 o2 o3 o4 o5 off hf hwin hen ⟨_, hcount, _⟩ _ _ hA hB hA' hA'' hB'
  exact ⟨_, execAll_sectorErase ⟨hen, hwin⟩ hf hA hB hA' hA'' hB' off, rfl, memRead_sectorErase hcount w⟩

end Sys2Proof.Proofs
end

section
/-!
PROOF. The EEPROM array and the line changes of GMOD2 (43_gmod2 R251 to R257): what a stored byte, word and fill leave and
report, the frame of every line change, and the clock edges that complete no command.
-/

namespace Sys2Proof.Machine

open Sys2Proof.Claims

/-! ### One byte, one word, the whole array -/

theorem memRead_eep_congr {s t : State} (h : t.eep = s.eep) (i : Nat) : memRead .eep i t = memRead .eep i s :=
  congrArg (fun m => (Memory.find i m).getD 0xFF) h

theorem memRead_eepStoreByte (i j : Nat) (b : Byte) (s : State) :
    memRead .eep j (eepStoreByte i b s) = if j = i then b else memRead .eep j s := by
  by_cases h : memRead .eep i s = b
  · rw [eepStoreByte, if_pos h]
    split
    next hj => rw [hj, h]
    next => rfl
  · rw [eepStoreByte, if_neg h, memRead_emit, memRead_memWrite]
    simp only [true_and]

theorem eepStoreByte_events (i : Nat) (b : Byte) (s : State) :
    (eepStoreByte i b s).events = s.events ++ (if memRead .eep i s = b then [] else [.persistEep i b]) := by
  rcases eepStoreByte_cases i b s with ⟨h, heq⟩ | ⟨h, heq⟩
  · rw [heq, if_pos h, List.append_nil]
  · rw [heq, if_neg h]

/-- The byte of a word that the byte index `i` holds: the low one at an even index (20_memory R62). -/
def byteOfWord (v : BitVec 16) (i : Nat) : Byte := BitVec.ofNat 8 (if i % 2 = 0 then v.toNat else v.toNat / 256)

theorem byteOfWord_even (v : BitVec 16) (a : Nat) : byteOfWord v (2 * a) = v.extractLsb' 0 8 := by
  rw [byteOfWord, if_pos (by omega)]
  rfl

theorem byteOfWord_odd (v : BitVec 16) (a : Nat) : byteOfWord v (2 * a + 1) = v.extractLsb' 8 8 := by
  rw [byteOfWord, if_neg (by omega), ← Nat.shiftRight_eq_div_pow v.toNat 8]
  rfl

theorem eepStoreWord_eq (a : Nat) (v : BitVec 16) (s : State) :
    eepStoreWord a v s =
      eepStoreByte (2 * a + 1) (byteOfWord v (2 * a + 1)) (eepStoreByte (2 * a) (byteOfWord v (2 * a)) s) := by
  rw [byteOfWord_even, byteOfWord_odd]
  rfl

theorem memRead_eepStoreWord (a : Nat) (v : BitVec 16) (s : State) (i : Nat) :
    memRead .eep i (eepStoreWord a v s) = if i / 2 = a then byteOfWord v i else memRead .eep i s := by
  rw [eepStoreWord_eq, memRead_eepStoreByte, memRead_eepStoreByte]
  by_cases hhigh : i = 2 * a + 1
  · rw [if_pos hhigh, if_pos (by omega), hhigh]
  · by_cases hlow : i = 2 * a
    · rw [if_neg hhigh, if_pos hlow, if_pos (by omega), hlow]
    · rw [if_neg hhigh, if_neg hlow, if_neg (by omega)]

theorem wordAt_eq {s : State} {a : Nat} {v : BitVec 16} (h : ∀ i, i / 2 = a → memRead .eep i s = byteOfWord v i) :
    wordAt s a = v := by
  rw [wordAt, h _ (by omega), h _ (by omega), byteOfWord_even, byteOfWord_odd]
  exact BitVec.extractLsb'_append_extractLsb'_eq_extractLsb' (by rfl) |>.trans (BitVec.extractLsb'_eq_self)

/-- The first `n` words stored. -/
theorem memRead_foldl_eepStoreWord (v : BitVec 16) (s : State) (i n : Nat) :
    memRead .eep i ((List.range n).foldl (fun t k => eepStoreWord k v t) s) =
      if i < 2 * n then byteOfWord v i else memRead .eep i s := by
  induction n with
  | zero => rfl
  | succ n ih =>
    rw [List.range_succ, List.foldl_append, List.foldl_cons, List.foldl_nil, memRead_eepStoreWord, ih]
    by_cases hword : i / 2 = n
    · rw [if_pos hword, if_pos (by omega)]
    · rw [if_neg hword]
      by_cases hi : i < 2 * n
      · rw [if_pos hi, if_pos (by omega)]
      · rw [if_neg hi, if_neg (by omega)]

theorem memRead_eepStoreAll (v : BitVec 16) (s : State) (i : Nat) :
    memRead .eep i (eepStoreAll v s) = if i < 2 * eepWords s.cfg then byteOfWord v i else memRead .eep i s :=
  memRead_foldl_eepStoreWord v s i _

/-! ### The frame of what the interface does to the array -/

/-- The records of the bytes in `[lo, hi)` that differ, ascending. -/
def changedIn (lo hi : Nat) (s t : State) : List OutEvent :=
  (List.range' lo (hi - lo)).filterMap fun i =>
    if memRead .eep i t = memRead .eep i s then none else some (.persistEep i (memRead .eep i t))

theorem changedBytes_eq (s t : State) : changedBytes s t = changedIn 0 2048 s t := by
  rw [changedBytes, List.range_eq_range']
  rfl

/-- From `s` to `t` only the EEPROM interface, the bytes `[lo, hi)` of the array and the event list may have changed, and each
byte that did is reported once, ascending. -/
structure EepFrame (lo hi : Nat) (s t : State) : Prop where
  keeps : ∃ e m ev, t = { s with eepi := e, eep := m, events := ev }
  outside : ∀ i, ¬(lo ≤ i ∧ i < hi) → memRead .eep i t = memRead .eep i s
  reports : t.events = s.events ++ changedIn lo hi s t

theorem changedIn_of_same {s t : State} (h : ∀ i, memRead .eep i t = memRead .eep i s) (lo hi : Nat) :
    changedIn lo hi s t = [] := by
  simp [changedIn, h]

/-- A change of the interface alone reports nothing. -/
theorem EepFrame.setEepi (lo hi : Nat) (e : EepromIface) (s : State) : EepFrame lo hi s (setEepi e s) where
  keeps := ⟨e, s.eep, s.events, rfl⟩
  outside _ _ := rfl
  reports := by
    rw [@changedIn_of_same s (Machine.setEepi e s) (fun _ => rfl), List.append_nil]
    rfl

theorem EepFrame.refl (lo hi : Nat) (s : State) : EepFrame lo hi s s := EepFrame.setEepi lo hi s.eepi s

theorem EepFrame.trans {lo mid hi : Nat} {s t u : State} (hlo : lo ≤ mid) (hhi : mid ≤ hi) (hst : EepFrame lo mid s t)
    (htu : EepFrame mid hi t u) : EepFrame lo hi s u where
  keeps := by
    obtain ⟨e, m, ev, rfl⟩ := hst.keeps
    obtain ⟨e', m', ev', rfl⟩ := htu.keeps
    exact ⟨e', m', ev', rfl⟩
  outside i hi' := by
    rw [htu.outside i (by omega), hst.outside i (by omega)]
  reports := by
    have hfirst : changedIn lo mid s t = changedIn lo mid s u := List.filterMap_congr fun i hi' => by
      rw [List.mem_range'_1] at hi'
      rw [htu.outside i (by omega)]
    have hsecond : changedIn mid hi t u = changedIn mid hi s u := List.filterMap_congr fun i hi' => by
      rw [List.mem_range'_1] at hi'
      rw [hst.outside i (by omega)]
    have hrange : List.range' lo (hi - lo) = List.range' lo (mid - lo) ++ List.range' mid (hi - mid) := by
      rw [← Nat.sub_add_sub_cancel hhi hlo, Nat.add_comm, ← List.range'_append_1, Nat.add_sub_cancel' hlo]
    rw [htu.reports, hst.reports, hfirst, hsecond, List.append_assoc]
    unfold changedIn
    rw [hrange, List.filterMap_append]

/-- A frame on some bytes is one on more. -/
theorem EepFrame.widen {lo hi hi' : Nat} {s t : State} (h : EepFrame lo hi s t) (hlo : lo ≤ hi) (hhi : hi ≤ hi') :
    EepFrame 0 hi' s t :=
  ((EepFrame.refl 0 lo s).trans (Nat.zero_le lo) hlo h).trans (Nat.zero_le hi) hhi (EepFrame.refl hi hi' t)

theorem EepFrame.eepStoreByte (i : Nat) (b : Byte) (s : State) : EepFrame i (i + 1) s (eepStoreByte i b s) where
  keeps := by
    rcases eepStoreByte_cases i b s with ⟨-, heq⟩ | ⟨-, heq⟩ <;> rw [heq]
    · exact ⟨s.eepi, s.eep, s.events, rfl⟩
    · exact ⟨_, _, _, rfl⟩
  outside j hj := by
    rw [memRead_eepStoreByte, if_neg (by omega)]
  reports := by
    rw [eepStoreByte_events, changedIn, Nat.add_sub_cancel_left]
    simp only [List.range'_one, List.filterMap_cons, List.filterMap_nil, memRead_eepStoreByte, if_true, eq_comm]
    split <;> rfl

theorem EepFrame.eepStoreWord (a : Nat) (v : BitVec 16) (s : State) :
    EepFrame (2 * a) (2 * (a + 1)) s (eepStoreWord a v s) :=
  (EepFrame.eepStoreByte ..).trans (by omega) (by omega) (EepFrame.eepStoreByte ..)

theorem EepFrame.foldl_eepStoreWord (v : BitVec 16) (s : State) (n : Nat) :
    EepFrame 0 (2 * n) s ((List.range n).foldl (fun t k => Machine.eepStoreWord k v t) s) := by
  induction n with
  | zero => exact EepFrame.refl ..
  | succ n ih =>
    rw [List.range_succ, List.foldl_append]
    exact ih.trans (by omega) (by omega) (EepFrame.eepStoreWord n v _)

theorem eepWords_le (cfg : Cfg) : eepWords cfg ≤ 1024 := by
  unfold eepWords
  split <;> decide

theorem mod_eepWords_lt (cfg : Cfg) (a : BitVec 10) : a.toNat % eepWords cfg < 1024 :=
  lt_of_le_of_lt (Nat.mod_le ..) a.isLt

/-- The frame of the interface as a whole: the array of 2048 bytes. -/
abbrev EepKept : State → State → Prop := EepFrame 0 2048

theorem EepKept.eepStoreWord {a : Nat} (ha : a < 1024) (v : BitVec 16) (s : State) : EepKept s (eepStoreWord a v s) :=
  (EepFrame.eepStoreWord a v s).widen (by omega) (by omega)

theorem EepKept.eepStoreAll (v : BitVec 16) (s : State) : EepKept s (eepStoreAll v s) :=
  (EepFrame.foldl_eepStoreWord v s _).widen (Nat.zero_le _) (Nat.mul_le_mul_left 2 (eepWords_le s.cfg))

/-- The interface may change after and before, as often as it likes. -/
theorem EepKept.setEepi_after {s t : State} (h : EepKept s t) (e : EepromIface) : EepKept s (setEepi e t) :=
  EepFrame.trans (Nat.zero_le _) le_rfl h (EepFrame.setEepi 2048 2048 e t)

theorem EepKept.of_setEepi {s t : State} {e : EepromIface} (h : EepKept (setEepi e s) t) : EepKept s t :=
  EepFrame.trans le_rfl (Nat.zero_le _) (EepFrame.setEepi 0 0 e s) h

theorem EepKept.eepCommand (op : BitVec 2) (a : BitVec 10) (s : State) : EepKept s (eepCommand op a s) := by
  unfold Machine.eepCommand
  split
  · exact EepFrame.setEepi ..
  · exact EepFrame.setEepi ..
  · refine EepKept.setEepi_after ?_ _
    split
    · exact EepKept.eepStoreWord (mod_eepWords_lt s.cfg a) _ s
    · exact EepFrame.refl ..
  · split
    · exact EepFrame.setEepi ..
    · exact EepFrame.setEepi ..
    · refine EepKept.setEepi_after ?_ _
      split
      · exact EepKept.eepStoreAll ..
      · exact EepFrame.refl ..
    · exact EepFrame.setEepi ..

theorem EepKept.eepCommit (s : State) : EepKept s (eepCommit s) := by
  refine EepKept.setEepi_after ?_ _
  split
  · split
    · exact EepKept.eepStoreWord s.eepi.addr.isLt _ s
    · exact EepKept.eepStoreAll ..
  · exact EepFrame.refl ..

theorem EepKept.eepClock (di : Bool) (s : State) : EepKept s (eepClock di s) := by
  unfold Machine.eepClock
  split
  case h_1 =>
    split
    · exact EepFrame.setEepi ..
    · exact EepFrame.refl ..
  case h_2 =>
    split
    · exact EepKept.of_setEepi (EepKept.eepCommand _ _ (eepTakeBit di s))
    · exact EepFrame.setEepi ..
  case h_5 =>
    unfold eepShiftOut
    split
    · exact EepFrame.setEepi ..
    · exact EepFrame.setEepi ..
  case h_6 => exact EepFrame.refl ..
  all_goals
    split
    · exact EepKept.of_setEepi (EepKept.eepCommit (eepTakeBit di s))
    · exact EepFrame.setEepi ..

theorem EepKept.eepLines (cs clk di : Bool) (s : State) : EepKept s (eepLines cs clk di s) := by
  have hedge : EepKept (eepChipSelect cs s) (Machine.eepLines cs clk di s) := by
    refine EepKept.setEepi_after (EepKept.of_setEepi (?_ : EepKept (eepLatchData cs di (eepChipSelect cs s)) _)) _
    unfold eepEdge
    split
    · exact EepKept.eepClock ..
    · exact EepFrame.refl ..
  unfold eepChipSelect at hedge
  split at hedge
  · exact hedge.of_setEepi
  · split at hedge
    · exact hedge.of_setEepi
    · exact hedge

/-! ### Line changes -/

/-- The data line recorded. -/
def withDataLine (di : Bool) (s : State) : State := setEepi { s.eepi with di := di } s

section
variable {cs clk di : Bool} {s : State}

theorem eepChipSelect_same (h : s.eepi.cs = cs) : eepChipSelect cs s = s := by
  subst h
  cases hcs : s.eepi.cs <;> simp [eepChipSelect, hcs]

theorem eepChipSelect_rise (h : s.eepi.cs = false) : eepChipSelect true s = eepSelect s := by
  simp [eepChipSelect, h]

theorem eepChipSelect_fall (h : s.eepi.cs = true) : eepChipSelect false s = eepDeselect s := by
  simp [eepChipSelect, h]

theorem eepChipSelect_clk : (eepChipSelect cs s).eepi.clk = s.eepi.clk := by
  unfold eepChipSelect
  split
  · rfl
  · split <;> rfl

theorem eepLines_of_not_rising (h : ¬(cs = true ∧ s.eepi.clk = false ∧ clk = true)) :
    eepLines cs clk di s = eepLatchClock clk (eepLatchData cs di (eepChipSelect cs s)) := by
  have hclk : (eepLatchData cs di (eepChipSelect cs s)).eepi.clk = s.eepi.clk := eepChipSelect_clk
  rw [eepLines, eepEdge, hclk, if_neg]
  simpa [and_assoc] using h

theorem eepLines_of_rising (h : s.eepi.clk = false) :
    eepLines true true di s = eepLatchClock true (eepClock di (eepLatchData true di (eepChipSelect true s))) := by
  have hclk : (eepLatchData true di (eepChipSelect true s)).eepi.clk = s.eepi.clk := eepChipSelect_clk
  rw [eepLines, eepEdge, hclk, h]
  rfl

/-- No edge and no change of chip-select: the lines are recorded. -/
theorem eepLines_same (hcs : s.eepi.cs = cs) (hedge : ¬(cs = true ∧ s.eepi.clk = false ∧ clk = true)) :
    eepLines cs clk di s = setEepi { s.eepi with clk := clk, di := di } s := by
  rw [eepLines_of_not_rising hedge, eepChipSelect_same hcs]
  subst hcs
  rfl

/-- A rising clock edge of a chip that stays selected. -/
theorem eepLines_rising (hcs : s.eepi.cs = true) (hclk : s.eepi.clk = false) :
    eepLines true true di s = eepLatchClock true (eepClock di (withDataLine di s)) := by
  have hlatch : eepLatchData true di s = withDataLine di s := by rw [eepLatchData, ← hcs, withDataLine]
  rw [eepLines_of_rising hclk, eepChipSelect_same hcs, hlatch]

end

theorem eepShiftIn_eq_shiftedIn (sr : BitVec 16) (di : Bool) : eepShiftIn sr di = shiftedIn sr di := by
  have hconcat : eepShiftIn sr di = sr.shiftConcat di := by
    ext i hi
    rw [BitVec.getElem_shiftConcat, eepShiftIn]
    cases i <;> simp
  have hnum := @BitVec.toNat_shiftConcat 16 sr di
  rw [hconcat, shiftedIn]
  refine BitVec.eq_of_toNat_eq (hnum.trans ?_)
  rw [BitVec.toNat_ofNat, Nat.shiftLeft_eq, Nat.pow_one, Nat.mul_comm]

theorem eepAddr_succ {cfg : Cfg} (h : cfg.variant = .gmod2) (a : BitVec 10) : eepAddr cfg (a.toNat + 1) = a + 1 := by
  rw [eepAddr, eepWords_gmod2 h]
  bv_omega

/-! ### The clock edge in each phase -/

/-- The phases that take input bits: the command word, and the data word of WRITE and of WRAL (43_gmod2 R254). -/
def takesBits (p : EepPhase) : Prop := p = .cmd ∨ p = .dataIn ∨ p = .dataInAll

/-- The number of bits such a phase takes. -/
def bitsTaken (p : EepPhase) : Nat := if p = .cmd then 12 else 16

/-- What the last bit of a phase starts: the command, or the commit of its data (43_gmod2 R255, R256). -/
def eepComplete (s : State) : State :=
  if s.eepi.phase = .cmd then eepCommand (s.eepi.sr.extractLsb' 10 2) (s.eepi.sr.extractLsb' 0 10) s else eepCommit s

section
variable {di : Bool} {s : State}

theorem eepClock_waitStart (h : s.eepi.phase = .waitStart) :
    eepClock di s = if di = true then setEepi { s.eepi with phase := .cmd, sr := 0, n := 0 } s else s := by
  simp only [eepClock, h]

theorem eepClock_of_takesBits (h : takesBits s.eepi.phase) :
    eepClock di s =
      if s.eepi.n + 1 = bitsTaken s.eepi.phase then eepComplete (eepTakeBit di s) else eepTakeBit di s := by
  rcases h with h | h | h
  all_goals
    have hphase : (eepTakeBit di s).eepi.phase = s.eepi.phase := rfl
    simp only [eepClock, eepComplete, hphase, h, bitsTaken]
    rfl

/-- A bit that is not the last of its phase. -/
theorem eepClock_shiftIn (h : takesBits s.eepi.phase) (hn : s.eepi.n + 1 ≠ bitsTaken s.eepi.phase) :
    eepClock di s = setEepi { s.eepi with sr := shiftedIn s.eepi.sr di, n := s.eepi.n + 1 } s := by
  rw [eepClock_of_takesBits h, if_neg hn, ← eepShiftIn_eq_shiftedIn]
  rfl

theorem eepClock_readOut (h : s.eepi.phase = .readOut) (hn : s.eepi.n ≠ 15) :
    eepClock di s =
      setEepi { s.eepi with dOut := s.eepi.out.getLsbD 15, out := s.eepi.out <<< 1, n := s.eepi.n + 1 } s := by
  simp only [eepClock, h, eepShiftOut]
  rw [if_neg (by omega)]

/-- The sixteenth bit out; the next word follows (43_gmod2 R254). -/
theorem eepClock_readOut_last (h : s.eepi.phase = .readOut) (hn : s.eepi.n = 15) (hv : s.cfg.variant = .gmod2) :
    eepClock di s =
      setEepi
        { s.eepi with
          dOut := s.eepi.out.getLsbD 15, addr := s.eepi.addr + 1, out := wordAt s (s.eepi.addr + 1).toNat, n := 0 } s := by
  simp only [eepClock, h, eepShiftOut]
  rw [if_pos (by omega), eepAddr_succ hv]
  rfl

theorem eepClock_done (h : s.eepi.phase = .done) : eepClock di s = s := by
  simp only [eepClock, h]

end

end Sys2Proof.Machine

namespace Sys2Proof.Proofs

open Sys2Proof.Machine
open Sys2Proof.Claims

/-- Settles O42: the two bytes of the word are stored one after the other. -/
theorem eepromStoreReportsChangedBytes : Obligations.EepromStoreReportsChangedBytes := by
  intro s a v
  refine ⟨wordAt_eq fun i hi => ?_, fun i hlow hhigh => ?_, ?_, ?_⟩
  · rw [memRead_eepStoreWord, if_pos hi]
  · rw [memRead_eepStoreWord, if_neg (by omega)]
  · obtain ⟨e, m, ev, heq⟩ := (EepFrame.eepStoreWord a v s).keeps
    have hiface : e = s.eepi := by rw [← eepStoreWord_eepi a v s, heq]
    rw [heq, hiface]
  · have hlow : byteOfWord v (2 * a) = BitVec.ofNat 8 v.toNat := by rw [byteOfWord, if_pos (by omega)]
    have hhigh : byteOfWord v (2 * a + 1) = BitVec.ofNat 8 (v.toNat / 256) := by rw [byteOfWord, if_neg (by omega)]
    rw [eepStoreWord_eq, eepStoreByte_events, eepStoreByte_events, memRead_eepStoreByte, if_neg (Nat.succ_ne_self _),
      hlow, hhigh, List.append_assoc]

/-- Settles O38: the register first, then the frame of a line change, then its cases. -/
theorem gmod2RegisterAndLines : Obligations.Gmod2RegisterAndLines := by
  intro s al d cs clk di
  refine ⟨?_, ?_, eepLines_same, fun hcs hfall => ?_, fun hcs hrise hedge => ?_, fun hcs hclk => ?_, fun hcs hclk => ?_⟩
  · rw [exec_gmIo1W, gmodRegister, byteField_six]
    simp only [getLsbD_eq_bit]
    rfl
  · have hkept := EepKept.eepLines cs clk di s
    obtain ⟨e, m, ev, heq⟩ := hkept.keeps
    refine ⟨?_, fun i hi => hkept.outside i (by omega)⟩
    rw [changedBytes_eq, ← hkept.reports, heq]
  · subst hfall
    rw [eepLines_of_not_rising (by simp), eepChipSelect_fall hcs]
    rfl
  · subst hrise
    rw [eepLines_of_not_rising (fun h => hedge h.2), eepChipSelect_rise hcs]
    rfl
  · rw [eepLines_of_rising hclk, eepChipSelect_rise hcs]
    cases di <;> rfl
  · simp only [eepLines_rising hcs hclk]
    refine ⟨fun h => ?_, fun h hn => ?_, fun h hn => ?_, fun h hn => ?_, fun h hn hv => ?_, fun h => ?_⟩
    · rw [@eepClock_waitStart di (withDataLine di s) h]
      cases di <;> rfl
    · have hlast : s.eepi.n + 1 ≠ bitsTaken s.eepi.phase := by
        rw [bitsTaken, if_pos h]
        omega
      rw [@eepClock_shiftIn di (withDataLine di s) (.inl h) hlast]
      rfl
    · have hlast : s.eepi.n + 1 ≠ bitsTaken s.eepi.phase := by
        rw [bitsTaken, if_neg (by rcases h with h | h <;> simp [h])]
        omega
      rw [@eepClock_shiftIn di (withDataLine di s) (.inr h) hlast]
      rfl
    · rw [@eepClock_readOut di (withDataLine di s) h hn]
      rfl
    · rw [@eepClock_readOut_last di (withDataLine di s) h hn hv]
      rfl
    · rw [@eepClock_done di (withDataLine di s) h]
      rfl

end Sys2Proof.Proofs
end

section
/-!
PROOF. EEPROM frames sent bit by bit through the GMOD2 register (43_gmod2 R251 to R257, section 3): the command word, the
write class, and the words of a READ.
-/

namespace Sys2Proof.Machine

open Sys2Proof.Claims

/-! ### One bit through the register -/

/-- Chip-select raised. -/
def selected (s : State) : State := eepLines true false false (gmodRegister 0x40 s)

/-- One bit sent to the selected chip: clock low, clock high. -/
def clocked (b : Bool) (s : State) : State :=
  eepLines true true b (gmodRegister (if b then 0x70 else 0x60)
    (eepLines true false b (gmodRegister (if b then 0x50 else 0x40) s)))

def sent (bits : List Bool) (s : State) : State := bits.foldl (fun t b => clocked b t) s

theorem execAll_gmIo1W (d : Byte) (is : List Instr) (s : State) :
    execAll (.gmIo1W 0 d :: is) s =
      execAll is (eepLines (d.getLsbD 6) (d.getLsbD 5) (d.getLsbD 4) (gmodRegister d s)) :=
  execAll_cons (exec_gmIo1W 0 d s) is

theorem execAll_sendBit (b : Bool) (is : List Instr) (s : State) :
    execAll (sendBit b ++ is) s = execAll is (clocked b s) := by
  cases b with
  | false => exact (execAll_gmIo1W 0x40 _ s).trans (execAll_gmIo1W 0x60 is _)
  | true => exact (execAll_gmIo1W 0x50 _ s).trans (execAll_gmIo1W 0x70 is _)

theorem execAll_sendBits (bits : List Bool) (s : State) : execAll (bits.flatMap sendBit) s = .next (sent bits s) := by
  induction bits generalizing s with
  | nil => rfl
  | cons b bits ih =>
    rw [List.flatMap_cons, execAll_sendBit, ih]
    rfl

theorem execAll_selectAndSend (bits : List Bool) (s : State) :
    execAll (selectAndSend bits) s = .next (sent bits (selected s)) :=
  execAll_sendBits bits (selected s)

theorem sent_append (bits bits' : List Bool) (s : State) : sent (bits ++ bits') s = sent bits' (sent bits s) :=
  List.foldl_append

/-- `t` holds the configuration and the array of `s`, and the interface `e` but for the levels of the clock and data lines:
what a frame leaves besides the bank register and the lines. -/
structure ChipIs (s : State) (e : EepromIface) (t : State) : Prop where
  cfg : t.cfg = s.cfg
  eep : t.eep = s.eep
  eepi : ∃ clk di, t.eepi = { e with clk := clk, di := di }

section
variable {s t : State} {e : EepromIface}

theorem ChipIs.memRead (h : ChipIs s e t) (i : Nat) : memRead .eep i t = memRead .eep i s := memRead_eep_congr h.eep i

theorem ChipIs.wordAt (h : ChipIs s e t) (a : Nat) : wordAt t a = wordAt s a := by
  rw [Claims.wordAt, h.memRead, h.memRead]
  rfl

/-- The interface replaced, the two lines aside. -/
theorem ChipIs.setEepi (h : ChipIs s e t) {e' f : EepromIface} (heq : ∃ clk di, f = { e' with clk := clk, di := di }) :
    ChipIs s e' (setEepi f t) :=
  ⟨h.cfg, h.eep, heq⟩

theorem ChipIs.eepLatchClock (h : ChipIs s e t) (clk : Bool) : ChipIs s e (eepLatchClock clk t) := by
  obtain ⟨_, di, heq⟩ := h.eepi
  exact h.setEepi ⟨clk, di, by rw [heq]⟩

theorem ChipIs.gmodRegister (h : ChipIs s e t) (d : Byte) : ChipIs s e (gmodRegister d t) :=
  ⟨(gmodRegister_cfg d t).trans h.cfg, (gmodRegister_eep d t).trans h.eep, by
    rw [gmodRegister_eepi]
    exact h.eepi⟩

theorem ChipIs.cs (h : ChipIs s e t) (hcs : e.cs = true) : t.eepi.cs = true := by
  obtain ⟨_, _, heq⟩ := h.eepi
  rw [heq, ← hcs]

/-- Clock low: no edge. -/
theorem ChipIs.clockLow (h : ChipIs s e t) (hcs : e.cs = true) (b : Bool) :
    ChipIs s e (eepLines true false b t) ∧ (eepLines true false b t).eepi.clk = false := by
  obtain ⟨_, _, heq⟩ := h.eepi
  rw [eepLines_same (h.cs hcs) (by simp)]
  exact ⟨h.setEepi ⟨false, b, by rw [heq]⟩, rfl⟩

/-- Clock high: one rising edge. -/
theorem ChipIs.clockHigh (h : ChipIs s e t) (hcs : e.cs = true) (hclk : t.eepi.clk = false) (b : Bool) :
    ∃ u, eepLines true true b t = Machine.eepLatchClock true (eepClock b u) ∧ ChipIs s e u := by
  obtain ⟨clk, _, heq⟩ := h.eepi
  exact ⟨_, eepLines_rising (h.cs hcs) hclk, h.setEepi ⟨clk, b, by rw [heq]⟩⟩

/-- One bit sent to a selected chip is one clock edge. -/
theorem ChipIs.clocked (h : ChipIs s e t) (hcs : e.cs = true) (b : Bool) :
    ∃ u, clocked b t = Machine.eepLatchClock true (eepClock b u) ∧ ChipIs s e u := by
  obtain ⟨hlow, hclk⟩ := (h.gmodRegister (if b then 0x50 else 0x40)).clockLow hcs b
  exact (hlow.gmodRegister (if b then 0x70 else 0x60)).clockHigh hcs (by rw [gmodRegister_eepi, hclk]) b

/-- Chip-select of a deselected chip, then the start bit (43_gmod2 R253, R254). -/
theorem chipIs_start (h : s.eepi.cs = false) :
    ChipIs s { s.eepi with cs := true, dOut := true, phase := .cmd, sr := 0, n := 0 } (clocked true (selected s)) := by
  have hcs : (gmodRegister 0x40 s).eepi.cs = false := by rw [gmodRegister_eepi, h]
  have hselected :
      ChipIs s { s.eepi with cs := true, dOut := true, phase := .waitStart, sr := 0, n := 0 } (selected s) := by
    rw [selected, eepLines_of_not_rising (by simp), eepChipSelect_rise hcs]
    refine ⟨gmodRegister_cfg .., gmodRegister_eep .., false, false, ?_⟩
    rw [← gmodRegister_eepi 0x40 s]
    rfl
  obtain ⟨u, hu, hchip⟩ := hselected.clocked rfl true
  obtain ⟨clk, di, heq⟩ := hchip.eepi
  rw [hu, eepClock_waitStart (by rw [heq]), if_pos rfl]
  exact (hchip.setEepi ⟨clk, di, by rw [heq]⟩).eepLatchClock true

/-! ### The bits of a phase -/

/-- The bits of a phase that takes input, the last one included: `ee_sr` holds them all when the command or the commit
starts. -/
theorem ChipIs.sent (h : ChipIs s e t) (hcs : e.cs = true) (hphase : takesBits e.phase) (bits : List Bool)
    (hn : e.n < bitsTaken e.phase) (hlen : e.n + bits.length = bitsTaken e.phase) :
    ∃ u, sent bits t = Machine.eepLatchClock true (eepComplete u) ∧
      ChipIs s { e with sr := bits.foldl shiftedIn e.sr, n := bitsTaken e.phase } u := by
  induction bits generalizing e t with
  | nil => simp at hlen; omega
  | cons b bits ih =>
    obtain ⟨u, hu, hchip⟩ := h.clocked hcs b
    obtain ⟨clk, di, heq⟩ := hchip.eepi
    have hphaseU : takesBits u.eepi.phase := by rwa [heq]
    rw [List.length_cons] at hlen
    show ∃ v, Machine.sent bits (Machine.clocked b t) = _ ∧ _
    by_cases hlast : e.n + 1 = bitsTaken e.phase
    · have hnil : bits = [] := List.eq_nil_of_length_eq_zero (by omega)
      rw [hu, eepClock_of_takesBits hphaseU, if_pos (by rw [heq]; exact hlast), hnil]
      exact ⟨_, rfl, hchip.setEepi ⟨clk, di, by rw [heq, eepShiftIn_eq_shiftedIn, ← hlast]; rfl⟩⟩
    · rw [hu, eepClock_shiftIn hphaseU (by rw [heq]; exact hlast)]
      have hnext : ChipIs s { e with sr := shiftedIn e.sr b, n := e.n + 1 } (Machine.eepLatchClock true
          (Machine.setEepi { u.eepi with sr := shiftedIn u.eepi.sr b, n := u.eepi.n + 1 } u)) :=
        (hchip.setEepi ⟨clk, di, by rw [heq]⟩).eepLatchClock true
      exact ih hnext hcs hphase (show e.n + 1 < bitsTaken e.phase by omega)
        (show e.n + 1 + bits.length = bitsTaken e.phase by omega)

end

/-- The last bit of a number is the low one, and the bits before it are those of its half. -/
theorem bitsOf_succ {n : Nat} (x : BitVec (n + 1)) :
    bitsOf x = bitsOf (BitVec.ofNat n (x.toNat / 2)) ++ [x.getLsbD 0] := by
  rw [bitsOf, List.range_succ, List.map_append]
  congr 1
  · refine List.map_congr_left fun k hk => ?_
    rw [List.mem_range] at hk
    have hindex : n + 1 - 1 - k = n - 1 - k + 1 := by omega
    simp only [BitVec.getMsbD, hk, hindex, BitVec.getLsbD_ofNat]
    rw [decide_eq_true (by omega : k < n + 1), decide_eq_true (by omega : n - 1 - k < n), ← Nat.testBit_succ]
    rfl
  · simp [BitVec.getMsbD]

theorem shiftedIn_ofNat (k : Nat) (b : Bool) : shiftedIn (BitVec.ofNat 16 k) b = BitVec.ofNat 16 (2 * k + b.toNat) := by
  rw [shiftedIn]
  bv_omega

/-- The bits of a number shifted in after `k` (43_gmod2 R254, most significant first). -/
theorem foldl_shiftedIn_bitsOf {n : Nat} (x : BitVec n) (k : Nat) :
    (bitsOf x).foldl shiftedIn (BitVec.ofNat 16 k) = BitVec.ofNat 16 (k * 2 ^ n + x.toNat) := by
  induction n with
  | zero => simp [bitsOf, BitVec.eq_nil x]
  | succ n ih =>
    have hhalf : (BitVec.ofNat n (x.toNat / 2)).toNat = x.toNat / 2 := Nat.mod_eq_of_lt (by have := x.isLt; omega)
    have hlow : (x.getLsbD 0).toNat = x.toNat % 2 := by
      rw [BitVec.getLsbD, Nat.toNat_testBit, Nat.pow_zero, Nat.div_one]
    rw [bitsOf_succ, List.foldl_append, ih, hhalf, List.foldl_cons, List.foldl_nil, shiftedIn_ofNat, hlow, Nat.pow_succ]
    congr 1
    have hsplit : k * (2 ^ n * 2) = 2 * (k * 2 ^ n) := by rw [← Nat.mul_assoc, Nat.mul_comm]
    omega

theorem length_bitsOf {n : Nat} (x : BitVec n) : (bitsOf x).length = n := by simp [bitsOf]

/-! ### The command word -/

/-- The interface after the twelve bits of a command, before it starts. -/
def commandIface (s : State) (sr : BitVec 16) : EepromIface :=
  { s.eepi with cs := true, dOut := true, phase := .cmd, sr := sr, n := 12 }

theorem foldl_shiftedIn_command (c1 c0 : Bool) (a : BitVec 10) :
    ([c1, c0] ++ bitsOf a).foldl shiftedIn 0 = BitVec.ofNat 16 ((2 * c1.toNat + c0.toNat) * 2 ^ 10 + a.toNat) := by
  have hop : [c1, c0].foldl shiftedIn 0 = BitVec.ofNat 16 (2 * c1.toNat + c0.toNat) := by
    cases c1 <;> cases c0 <;> rfl
  rw [List.foldl_append, hop, foldl_shiftedIn_bitsOf]

/-- The two fields of a command word (43_gmod2 R255). -/
theorem commandWord_fields (op : Nat) (a : BitVec 10) :
    (BitVec.ofNat 16 (op * 2 ^ 10 + a.toNat)).extractLsb' 10 2 = BitVec.ofNat 2 op ∧
      (BitVec.ofNat 16 (op * 2 ^ 10 + a.toNat)).extractLsb' 0 10 = a := by
  have := a.isLt
  constructor <;> refine BitVec.eq_of_toNat_eq ?_ <;>
    simp only [BitVec.extractLsb'_toNat, Nat.shiftRight_eq_div_pow, BitVec.toNat_ofNat] <;> omega

/-- Start bit, opcode and address: the chip starts that command, and the bits that follow go on from there. -/
theorem sent_command {s : State} (hcs : s.eepi.cs = false) {c1 c0 : Bool} {op : BitVec 2}
    (hcode : BitVec.ofNat 2 (2 * c1.toNat + c0.toNat) = op) (a : BitVec 10) (bits : List Bool) :
    ∃ u sr, execAll (selectAndSend ([true, c1, c0] ++ bitsOf a ++ bits)) s =
        .next (sent bits (eepLatchClock true (eepCommand op a u))) ∧
      ChipIs s (commandIface s sr) u := by
  have hlen : ([c1, c0] ++ bitsOf a).length = 12 := by
    rw [List.length_append, length_bitsOf]
    rfl
  obtain ⟨u, hu, hchip⟩ := (chipIs_start hcs).sent rfl (.inl rfl) ([c1, c0] ++ bitsOf a) (Nat.zero_lt_succ 11)
    (by rw [hlen]; rfl)
  rw [foldl_shiftedIn_command] at hchip
  obtain ⟨clk, di, heq⟩ := hchip.eepi
  obtain ⟨hop, haddr⟩ := commandWord_fields (2 * c1.toNat + c0.toNat) a
  have hsr : u.eepi.sr = BitVec.ofNat 16 ((2 * c1.toNat + c0.toNat) * 2 ^ 10 + a.toNat) := by rw [heq]
  rw [eepComplete, if_pos (by rw [heq]), hsr, hop, hcode, haddr] at hu
  refine ⟨u, _, ?_, hchip⟩
  have hbits : [true, c1, c0] ++ bitsOf a ++ bits = [true] ++ (([c1, c0] ++ bitsOf a) ++ bits) := rfl
  rw [hbits, execAll_selectAndSend, sent_append, sent_append, ← hu]
  rfl

section
variable {s u : State} {a : BitVec 10}

theorem eepAddr_self (hv : u.cfg.variant = .gmod2) (a : BitVec 10) : eepAddr u.cfg a.toNat = a := by
  rw [eepAddr, eepWords_gmod2 hv]
  bv_omega

theorem eepCommand_read (hv : u.cfg.variant = .gmod2) :
    eepCommand 2 a u =
      setEepi { u.eepi with addr := a, out := wordAt u a.toNat, n := 0, dOut := false, phase := .readOut } u := by
  show setEepi
    { u.eepi with
      addr := eepAddr u.cfg a.toNat, out := eepWord (eepAddr u.cfg a.toNat) u, n := 0, dOut := false,
      phase := .readOut } u = _
  rw [eepAddr_self hv]
  rfl

theorem eepCommand_write (hv : u.cfg.variant = .gmod2) :
    eepCommand 1 a u = setEepi { u.eepi with addr := a, sr := 0, n := 0, phase := .dataIn } u := by
  show setEepi { u.eepi with addr := eepAddr u.cfg a.toNat, sr := 0, n := 0, phase := .dataIn } u = _
  rw [eepAddr_self hv]

theorem eepCommand_erase (hv : u.cfg.variant = .gmod2) :
    eepCommand 3 a u = eepReady (if u.eepi.wen = true then eepStoreWord a.toNat 0xFFFF u else u) := by
  have ha : a.toNat % eepWords u.cfg = a.toNat := by
    rw [eepWords_gmod2 hv]
    exact Nat.mod_eq_of_lt a.isLt
  show eepReady (if u.eepi.wen = true then eepStoreWord (a.toNat % eepWords u.cfg) 0xFFFF u else u) = _
  rw [ha]

/-- The two high address bits, which tell the commands of opcode 00 apart (43_gmod2 R255). -/
theorem addressHigh (a : BitVec 10) : (a.extractLsb' 8 2).toNat = a.toNat / 256 := by
  have := a.isLt
  rw [BitVec.extractLsb'_toNat, Nat.shiftRight_eq_div_pow]
  omega

theorem eepCommand_ewen (h : a.toNat / 256 = 3) :
    eepCommand 0 a u = setEepi { u.eepi with wen := true, phase := .done } u := by
  simp only [eepCommand, addressHigh, h]
  rfl

theorem eepCommand_ewds (h : a.toNat / 256 = 0) :
    eepCommand 0 a u = setEepi { u.eepi with wen := false, phase := .done } u := by
  simp only [eepCommand, addressHigh, h]
  rfl

theorem eepCommand_eral (h : a.toNat / 256 = 2) :
    eepCommand 0 a u = eepReady (if u.eepi.wen = true then eepStoreAll 0xFFFF u else u) := by
  simp only [eepCommand, addressHigh, h]
  rfl

theorem eepCommand_wral (h : a.toNat / 256 = 1) :
    eepCommand 0 a u = setEepi { u.eepi with sr := 0, n := 0, phase := .dataInAll } u := by
  simp only [eepCommand, addressHigh, h]
  rfl

end

/-! ### The write class -/

/-- The frame completes, the chip is ready after it, and the latch and the array are as given. -/
def FrameLeaves (s : State) (bits : List Bool) (wen : Bool) (byte : Nat → Byte) : Prop :=
  ∃ t, execAll (selectAndSend bits) s = .next t ∧ Drives (.gmIo1R 0) t (some 0x80) ∧ t.eepi.wen = wen ∧
    ∀ i, memRead .eep i t = byte i

theorem drives_ready {t : State} (hcs : t.eepi.cs = true) (hdo : t.eepi.dOut = true) :
    Drives (.gmIo1R 0) t (some 0x80) := by
  have h := drives_gmIo1R 0 t
  rwa [if_pos ⟨hcs, hdo⟩] at h

/-- EWEN and EWDS: the command sets the latch and leaves the array. -/
theorem frameLeaves_latch {s : State} (hcs : s.eepi.cs = false) {a : BitVec 10} {wen : Bool}
    (hcmd : ∀ u, eepCommand 0 a u = setEepi { u.eepi with wen := wen, phase := .done } u) :
    FrameLeaves s ([true, false, false] ++ bitsOf a) wen fun i => memRead .eep i s := by
  obtain ⟨u, sr, hrun, hchip⟩ := @sent_command s hcs false false 0 rfl a []
  obtain ⟨clk, di, heq⟩ := hchip.eepi
  rw [List.append_nil] at hrun
  refine ⟨_, hrun.trans (congrArg (fun t => Host.Outcome.next (eepLatchClock true t)) (hcmd u)), ?_, rfl, hchip.memRead⟩
  exact drives_ready (congrArg EepromIface.cs heq) (congrArg EepromIface.dOut heq)

/-- A command that stores: `stored` only with the latch set, then ready. -/
theorem frameLeaves_store {s u stored : State} {bits : List Bool} {e : EepromIface} (hchip : ChipIs s e u)
    (hcs : e.cs = true) (hiface : stored.eepi = u.eepi)
    (hrun : execAll (selectAndSend bits) s =
      .next (eepLatchClock true (eepReady (if u.eepi.wen = true then stored else u))))
    {p : Nat → Prop} [DecidablePred p] {new : Nat → Byte}
    (hstored : ∀ i, memRead .eep i stored = if p i then new i else memRead .eep i u) :
    FrameLeaves s bits e.wen fun i => if e.wen = true ∧ p i then new i else memRead .eep i s := by
  obtain ⟨clk, di, heq⟩ := hchip.eepi
  have hwen : u.eepi.wen = e.wen := by rw [heq]
  rw [hwen] at hrun
  have hafter : (if e.wen = true then stored else u).eepi = u.eepi := by
    split
    · exact hiface
    · rfl
  refine ⟨_, hrun, drives_ready ?_ rfl, ?_, fun i => ?_⟩
  · show (if e.wen = true then stored else u).eepi.cs = true
    rw [hafter, heq]
    exact hcs
  · show (if e.wen = true then stored else u).eepi.wen = e.wen
    rw [hafter, hwen]
  · show memRead .eep i (if e.wen = true then stored else u) = if e.wen = true ∧ p i then new i else memRead .eep i s
    by_cases hw : e.wen = true
    · rw [if_pos hw, hstored, hchip.memRead]
      simp only [hw, true_and]
    · rw [if_neg hw, hchip.memRead, if_neg fun h => hw h.1]

/-- The sixteen data bits of a WRITE or WRAL frame: the commit finds the word in `ee_sr`. -/
theorem sent_data {s t : State} {e : EepromIface} (h : ChipIs s e t) (hcs : e.cs = true)
    (hphase : e.phase = .dataIn ∨ e.phase = .dataInAll) (hn : e.n = 0) (hsr : e.sr = 0) (v : BitVec 16) :
    ∃ u, sent (bitsOf v) t = eepLatchClock true (eepCommit u) ∧ ChipIs s { e with sr := v, n := 16 } u := by
  have htaken : bitsTaken e.phase = 16 := by
    rw [bitsTaken, if_neg (by rcases hphase with h | h <;> simp [h])]
  have hlen := length_bitsOf v
  obtain ⟨u, hu, hchip⟩ := h.sent hcs (.inr hphase) (bitsOf v) (by omega) (by omega)
  have hword : (bitsOf v).foldl shiftedIn e.sr = v := by
    rw [hsr]
    exact (foldl_shiftedIn_bitsOf v 0).trans (by rw [Nat.zero_mul, Nat.zero_add, BitVec.ofNat_toNat, BitVec.setWidth_eq])
  rw [hword, htaken] at hchip
  obtain ⟨clk, di, heq⟩ := hchip.eepi
  rw [eepComplete, if_neg (by rw [heq]; rcases hphase with h | h <;> simp [h])] at hu
  exact ⟨u, hu, hchip⟩

/-- ERASE: the addressed word takes ones. -/
theorem frameLeaves_erase {s : State} (hv : s.cfg.variant = .gmod2) (hcs : s.eepi.cs = false) (a : BitVec 10) :
    FrameLeaves s ([true, true, true] ++ bitsOf a) s.eepi.wen fun i =>
      if s.eepi.wen = true ∧ i / 2 = a.toNat then byteOfWord 0xFFFF i else memRead .eep i s := by
  obtain ⟨u, sr, hrun, hchip⟩ := @sent_command s hcs true true 3 rfl a []
  rw [List.append_nil] at hrun
  exact frameLeaves_store hchip rfl (eepStoreWord_eepi ..)
    (hrun.trans (congrArg (fun t => Host.Outcome.next (eepLatchClock true t)) (eepCommand_erase (by rw [hchip.cfg, hv]))))
    (memRead_eepStoreWord _ _ _)

/-- ERAL: every word takes ones. -/
theorem frameLeaves_eral {s : State} (hv : s.cfg.variant = .gmod2) (hcs : s.eepi.cs = false) {a : BitVec 10}
    (ha : a.toNat / 256 = 2) :
    FrameLeaves s ([true, false, false] ++ bitsOf a) s.eepi.wen fun i =>
      if s.eepi.wen = true ∧ i < 2048 then byteOfWord 0xFFFF i else memRead .eep i s := by
  obtain ⟨u, sr, hrun, hchip⟩ := @sent_command s hcs false false 0 rfl a []
  rw [List.append_nil] at hrun
  refine frameLeaves_store hchip rfl (eepStoreAll_eepi ..)
    (hrun.trans (congrArg (fun t => Host.Outcome.next (eepLatchClock true t)) (eepCommand_eral ha))) fun i => ?_
  rw [memRead_eepStoreAll, hchip.cfg, eepWords_gmod2 hv]

/-- WRITE: the addressed word takes the data. -/
theorem frameLeaves_write {s : State} (hv : s.cfg.variant = .gmod2) (hcs : s.eepi.cs = false) (a : BitVec 10)
    (v : BitVec 16) :
    FrameLeaves s ([true, false, true] ++ bitsOf a ++ bitsOf v) s.eepi.wen fun i =>
      if s.eepi.wen = true ∧ i / 2 = a.toNat then byteOfWord v i else memRead .eep i s := by
  obtain ⟨u, sr, hrun, hchip⟩ := @sent_command s hcs false true 1 rfl a (bitsOf v)
  obtain ⟨clk, di, heq⟩ := hchip.eepi
  have hdata : ChipIs s { commandIface s sr with addr := a, sr := 0, n := 0, phase := .dataIn }
      (eepLatchClock true (eepCommand 1 a u)) := by
    rw [eepCommand_write (by rw [hchip.cfg, hv])]
    exact (hchip.setEepi ⟨clk, di, by rw [heq]⟩).eepLatchClock true
  obtain ⟨w, hw, hchipW⟩ := sent_data hdata rfl (.inl rfl) rfl rfl v
  obtain ⟨clk', di', heqW⟩ := hchipW.eepi
  have hcommit : eepCommit w = eepReady (if w.eepi.wen = true then eepStoreWord a.toNat v w else w) := by
    rw [eepCommit, heqW]
    rfl
  rw [hcommit] at hw
  exact frameLeaves_store hchipW rfl (eepStoreWord_eepi ..) (hrun.trans (congrArg Host.Outcome.next hw))
    (memRead_eepStoreWord _ _ _)

/-- WRAL: every word takes the data. -/
theorem frameLeaves_wral {s : State} (hv : s.cfg.variant = .gmod2) (hcs : s.eepi.cs = false) {a : BitVec 10}
    (ha : a.toNat / 256 = 1) (v : BitVec 16) :
    FrameLeaves s ([true, false, false] ++ bitsOf a ++ bitsOf v) s.eepi.wen fun i =>
      if s.eepi.wen = true ∧ i < 2048 then byteOfWord v i else memRead .eep i s := by
  obtain ⟨u, sr, hrun, hchip⟩ := @sent_command s hcs false false 0 rfl a (bitsOf v)
  obtain ⟨clk, di, heq⟩ := hchip.eepi
  have hdata : ChipIs s { commandIface s sr with sr := 0, n := 0, phase := .dataInAll }
      (eepLatchClock true (eepCommand 0 a u)) := by
    rw [eepCommand_wral ha]
    exact (hchip.setEepi ⟨clk, di, by rw [heq]⟩).eepLatchClock true
  obtain ⟨w, hw, hchipW⟩ := sent_data hdata rfl (.inr rfl) rfl rfl v
  obtain ⟨clk', di', heqW⟩ := hchipW.eepi
  have hcommit : eepCommit w = eepReady (if w.eepi.wen = true then eepStoreAll v w else w) := by
    rw [eepCommit, heqW]
    rfl
  rw [hcommit] at hw
  refine frameLeaves_store hchipW rfl (eepStoreAll_eepi ..) (hrun.trans (congrArg Host.Outcome.next hw)) fun i => ?_
  rw [memRead_eepStoreAll, hchipW.cfg, eepWords_gmod2 hv]

/-- Every byte of a word of ones. -/
theorem byteOfWord_ones (i : Nat) : byteOfWord 0xFFFF i = 0xFF := by
  unfold byteOfWord
  split <;> rfl

/-- The deselect that ends a frame keeps the latch and the array (43_gmod2 R257). -/
theorem gmIo1W_deselect (t : State) :
    ∃ u, exec (.gmIo1W 0 0x00) t = .next u ∧ u.eepi.wen = t.eepi.wen ∧ u.eepi.cs = false ∧
      ∀ i, memRead .eep i u = memRead .eep i t := by
  have hlines : exec (.gmIo1W 0 0x00) t =
      .next (eepLatchClock false (eepLatchData false false (eepChipSelect false (gmodRegister 0x00 t)))) := by
    rw [exec_gmIo1W, ← eepLines_of_not_rising (by simp)]
    rfl
  refine ⟨_, hlines, ?_, rfl, memRead_eep_congr ?_⟩
  · show (eepChipSelect false (gmodRegister 0x00 t)).eepi.wen = t.eepi.wen
    rw [eepChipSelect_wen, gmodRegister_eepi]
  · show (eepChipSelect false (gmodRegister 0x00 t)).eep = t.eep
    rw [eepChipSelect_eep, gmodRegister_eep]

/-! ### READ -/

/-- The word a READ from `a` puts out after `m` clocks (43_gmod2 R254). -/
def readAddress (a : BitVec 10) (m : Nat) : BitVec 10 := BitVec.ofNat 10 (a.toNat + m / 16)

/-- The bit that the `m`-th clock put out; the dummy bit 0 before the first. -/
def readBit (s : State) (a : BitVec 10) : Nat → Bool
  | 0 => false
  | m + 1 => (wordAt s (readAddress a m).toNat).getMsbD (m % 16)

/-- The interface `m` clocks after a READ command. -/
def readIface (s : State) (sr : BitVec 16) (a : BitVec 10) (m : Nat) : EepromIface :=
  { s.eepi with
    cs := true, dOut := readBit s a m, phase := .readOut, sr := sr, n := m % 16, addr := readAddress a m,
    out := wordAt s (readAddress a m).toNat <<< (m % 16) }

theorem readIface_zero (s : State) (sr : BitVec 16) (a : BitVec 10) :
    readIface s sr a 0 =
      { s.eepi with
        cs := true, dOut := false, phase := .readOut, sr := sr, n := 0, addr := a, out := wordAt s a.toNat } := by
  have haddr : readAddress a 0 = a := by
    rw [readAddress, Nat.zero_div, Nat.add_zero, BitVec.ofNat_toNat, BitVec.setWidth_eq]
  simp only [readIface, haddr, Nat.zero_mod, BitVec.shiftLeft_zero, readBit]

theorem readIface_out_high (s : State) (sr : BitVec 16) (a : BitVec 10) (m : Nat) :
    (readIface s sr a m).out.getLsbD 15 = readBit s a (m + 1) := by
  have hm : m % 16 < 16 := Nat.mod_lt _ (by decide)
  show (wordAt s (readAddress a m).toNat <<< (m % 16)).getLsbD 15 = (wordAt s (readAddress a m).toNat).getMsbD (m % 16)
  rw [BitVec.getLsbD_shiftLeft, BitVec.getMsbD]
  simp [hm]
  omega

/-- A clock inside a word. -/
theorem readIface_succ (s : State) (sr : BitVec 16) (a : BitVec 10) {m : Nat} (hm : m % 16 ≠ 15) :
    readIface s sr a (m + 1) =
      { readIface s sr a m with
        dOut := readBit s a (m + 1), out := (readIface s sr a m).out <<< 1, n := m % 16 + 1 } := by
  have haddr : readAddress a (m + 1) = readAddress a m := by
    rw [readAddress, show (m + 1) / 16 = m / 16 by omega, readAddress]
  have hn : (m + 1) % 16 = m % 16 + 1 := by omega
  simp only [readIface, haddr, hn, BitVec.shiftLeft_add]

/-- The sixteenth clock of a word: the next one follows, after word 1023 the first. -/
theorem readIface_succ_last (s : State) (sr : BitVec 16) (a : BitVec 10) {m : Nat} (hm : m % 16 = 15) :
    readIface s sr a (m + 1) =
      { readIface s sr a m with
        dOut := readBit s a (m + 1), addr := readAddress a m + 1, out := wordAt s (readAddress a m + 1).toNat,
        n := 0 } := by
  have haddr : readAddress a (m + 1) = readAddress a m + 1 := by
    rw [readAddress, readAddress, show (m + 1) / 16 = m / 16 + 1 by omega]
    bv_omega
  have hn : (m + 1) % 16 = 0 := by omega
  simp only [readIface, haddr, hn, BitVec.shiftLeft_zero]

theorem ChipIs.clocked_read {s t : State} {sr : BitVec 16} {a : BitVec 10} {m : Nat} (hv : s.cfg.variant = .gmod2)
    (h : ChipIs s (readIface s sr a m) t) (b : Bool) : ChipIs s (readIface s sr a (m + 1)) (Machine.clocked b t) := by
  obtain ⟨u, hu, hchip⟩ := h.clocked rfl b
  obtain ⟨clk, di, heq⟩ := hchip.eepi
  have hphase : u.eepi.phase = .readOut := by rw [heq]; rfl
  have hn : u.eepi.n = m % 16 := by rw [heq]; rfl
  have hbit : u.eepi.out.getLsbD 15 = readBit s a (m + 1) := by
    rw [← readIface_out_high s sr, heq]
  rw [hu]
  by_cases hlast : m % 16 = 15
  · rw [eepClock_readOut_last hphase (hn.trans hlast) (by rw [hchip.cfg, hv]), hbit, hchip.wordAt,
      readIface_succ_last s sr a hlast]
    exact (hchip.setEepi ⟨clk, di, by rw [heq]; rfl⟩).eepLatchClock true
  · rw [eepClock_readOut hphase (by omega), hbit, hn, readIface_succ s sr a hlast]
    exact (hchip.setEepi ⟨clk, di, by rw [heq]⟩).eepLatchClock true

theorem ChipIs.sent_read {s t : State} {sr : BitVec 16} {a : BitVec 10} (hv : s.cfg.variant = .gmod2) (bits : List Bool)
    {m : Nat} (h : ChipIs s (readIface s sr a m) t) :
    ChipIs s (readIface s sr a (m + bits.length)) (Machine.sent bits t) := by
  induction bits generalizing t m with
  | nil => exact h
  | cons b bits ih =>
    rw [List.length_cons, ← Nat.add_assoc, Nat.add_right_comm]
    exact ih (h.clocked_read hv b)

/-- A READ frame and as many clocks as bits follow it. -/
theorem read_frame {s : State} (hv : s.cfg.variant = .gmod2) (hcs : s.eepi.cs = false) (a : BitVec 10) (bits : List Bool) :
    ∃ t, execAll (selectAndSend ([true, true, false] ++ bitsOf a ++ bits)) s = .next t ∧
      Drives (.gmIo1R 0) t (some (if readBit s a bits.length = true then 0x80 else 0x00)) := by
  obtain ⟨u, sr, hrun, hchip⟩ := @sent_command s hcs true false 2 rfl a bits
  obtain ⟨clk, di, heq⟩ := hchip.eepi
  have hstart : ChipIs s (readIface s sr a 0) (eepLatchClock true (eepCommand 2 a u)) := by
    rw [eepCommand_read (by rw [hchip.cfg, hv]), hchip.wordAt, readIface_zero]
    exact (hchip.setEepi ⟨clk, di, by rw [heq]; rfl⟩).eepLatchClock true
  obtain ⟨clk', di', heq'⟩ := (hstart.sent_read hv bits).eepi
  refine ⟨_, hrun, ?_⟩
  have hdrives := drives_gmIo1R 0 (sent bits (eepLatchClock true (eepCommand 2 a u)))
  rw [heq', Nat.zero_add] at hdrives
  simpa only [readIface, true_and] using hdrives

end Sys2Proof.Machine

namespace Sys2Proof.Proofs

open Sys2Proof.Machine
open Sys2Proof.Claims

/-- Settles O43: the frame of `frameLeaves_write`, then the deselect. -/
theorem eepromWriteFrameStoresTheWord : Obligations.EepromWriteFrameStoresTheWord := by
  intro s a v hv hcs
  obtain ⟨t, hrun, hready, hwen, hbyte⟩ := frameLeaves_write hv hcs a v
  obtain ⟨u, hdeselect, hwenU, hcsU, hbyteU⟩ := gmIo1W_deselect t
  simp only [hbyte] at hbyteU
  refine ⟨t, u, hrun, hready, hdeselect, fun hw => wordAt_eq fun i hi => ?_, fun i hi => ?_, hwenU.trans hwen, hcsU⟩
  · rw [hbyteU, if_pos ⟨hw, hi⟩]
  · rw [hbyteU, if_neg]
    rintro ⟨hw, hword⟩
    rcases hi with hclear | ⟨hlow, hhigh⟩
    · rw [hw] at hclear
      cases hclear
    · omega

/-- Settles O60, one command after the other. -/
theorem eepromCommandFrames : Obligations.EepromCommandFrames := by
  intro s a v hv hcs
  have herase := frameLeaves_erase hv hcs a
  have heral := @frameLeaves_eral s hv hcs a
  simp only [byteOfWord_ones] at herase heral
  exact ⟨fun h => frameLeaves_latch hcs fun _ => eepCommand_ewen h,
    fun h => frameLeaves_latch hcs fun _ => eepCommand_ewds h,
    herase, heral, fun h => frameLeaves_wral hv hcs h v⟩

/-- Settles O44: the invariant `readIface` of the clocks after a READ command. -/
theorem eepromReadFrameReturnsTheWords : Obligations.EepromReadFrameReturnsTheWords := by
  intro s a k hv hcs
  constructor
  · obtain ⟨t, hrun, hdrives⟩ := read_frame hv hcs a []
    rw [List.append_nil] at hrun
    exact ⟨t, hrun, hdrives⟩
  · obtain ⟨t, hrun, hdrives⟩ := read_frame hv hcs a (List.replicate (k + 1) false)
    rw [List.length_replicate] at hdrives
    exact ⟨t, hrun, hdrives⟩

end Sys2Proof.Proofs
end
